-- ==== Sys2Proof/Word.lean ====
section
/-!
DEFINITION. The value types of the block (spec 00_scope R8) and their plainest arithmetic.

A stream position is 64 bits and wraps (R10 (a)); samples and scores are IEEE-754 patterns held as bits
(30_encoding R100, R101), because NaN, infinities and both zeros are values of theirs. Sizes, counters and indices
are naturals (R10 (b)); soft sums and decoder metrics are integers (R10 (d)).
-/

namespace Sys2Proof

/-- `byte`, `u8` (R8). -/
abbrev Byte := BitVec 8

/-- `u32` (R8). -/
abbrev U32 := BitVec 32

/-- `u64` (R8): a stream position (30_encoding R102); its addition is modulo 2^64 (R10 (a)). -/
abbrev U64 := BitVec 64

/-- `f32` (R8): the pattern of an IEEE-754 binary32. -/
abbrev F32 := BitVec 32

/-- `f64` (R8): the pattern of an IEEE-754 binary64. -/
abbrev F64 := BitVec 64

/-- `s8` (R8): two's complement in 8 bits; its value is `BitVec.toInt`. -/
abbrev S8 := BitVec 8

/-- A `real` as the hardware's registers hold it (10_state R31: "hardware: f32 or f64, NUMERICS"): a pattern of 64 bits
whose meaning is NUMERICS', the all-zero pattern being 0. DESIGN CHOICE, log entry 3. -/
abbrev HReal := BitVec 64

/-- A complex value `re + j*im` over any component type: `c32`, `c64`, and `cplx` in the exact instance (R8). -/
structure Cx (R : Type) where
  re : R
  im : R
deriving DecidableEq, Repr, Inhabited

/-- The complex zero, both components the component type's zero. -/
def Cx.zero {R : Type} [OfNat R 0] : Cx R := ⟨0, 0⟩

/-- `c32` (R8): the real part, then the imaginary part (20_memory R70). -/
abbrev C32 := Cx F32

/-- `c64` (R8), and a `cplx` register of the hardware (`WIN_SUM`). -/
abbrev C64 := Cx HReal

/-- The three constituent streams of the turbo code, D1, D2, D3 as streams 0, 1, 2 (46_turbo_decoder, Streams). -/
structure Streams (α : Type) where
  d0 : List α
  d1 : List α
  d2 : List α
deriving DecidableEq, Repr, Inhabited

end Sys2Proof
end

