-- ==== Sys2Proof/Config.lean ====
section
/-!
DEFINITION. What an instance of the block fixes when it is built (spec 00_scope R7, 92_eei_decisions "Open parameters,
collected"), and the free values.

The meanings are written over a parameter record `P : Params`; the machine runs them at `Config.params`, an opaque
constant, so that what is proved holds for every instance (log entry 5). The floating-point implementation is one field
of that record, `NUMERICS` (R9, decision D4), a total deterministic function per real or complex operation (log entry 2).
`Machine/Exact.lean` gives its reference instance, exact real arithmetic.
-/

namespace Sys2Proof

/-- `NUMERICS` (00_scope R9, R11, R12; decision D4): one total, deterministic function per real or complex operation,
depending on the operands alone. `S` is the type of a component of a sample (`f32`), `R` that of a real register.
A sum over a window, a dot product, and one output of a transform are each ONE operation, so that the order of the
additions inside them stays the implementation's (R12: "any algorithm that computes DFT"). -/
structure Numerics (S R : Type) where
  /-- A component of a `c32` read as a real. -/
  widen : S → R
  /-- A real rounded to `f32` (41 R162: "the rounding is NUMERICS"). -/
  narrow : R → S
  /-- The final rounding of `GENERATE_ZC` where round to nearest (40 R143, D10) leaves its result open: a tie, a value no
  finite `f32` is next to, a NaN (log entry 25). -/
  roundOpen : R → S
  /-- A natural as a real. -/
  ofNat : Nat → R
  /-- The test `x = 0`. -/
  isZero : R → Bool
  /-- The comparison `x >= y` (43 R201). -/
  ge : R → R → Bool
  add : R → R → R
  sub : R → R → R
  mul : R → R → R
  div : R → R → R
  /-- A real divided by a natural. -/
  divNat : R → Nat → R
  /-- The test `z = 0`. -/
  cisZero : Cx R → Bool
  cadd : Cx R → Cx R → Cx R
  csub : Cx R → Cx R → Cx R
  cmul : Cx R → Cx R → Cx R
  cdiv : Cx R → Cx R → Cx R
  conj : Cx R → Cx R
  /-- A complex value divided by a natural. -/
  cdivNat : Cx R → Nat → Cx R
  /-- `abs2(z)`, the magnitude squared (R11). -/
  abs2 : Cx R → R
  /-- `arg(z)` (R11). -/
  arg : Cx R → R
  /-- `sum_k z[k]`. -/
  csum : List (Cx R) → Cx R
  /-- `sum_k abs2(z[k])`. -/
  energy : List (Cx R) → R
  /-- `sum_k a[k] * b[k]`, the multiply-accumulate of 41 R163 and 43 R201, R204. -/
  dot : List (Cx R × Cx R) → Cx R
  /-- `cexp(pi * a / b)` for integers `a`, `b`: the product is formed exactly before the division (40 R141, D4). -/
  cexpPi : Int → Nat → Cx R
  /-- `cexp(-w * n)` (43 R205). -/
  derotate : R → Nat → Cx R
  /-- Element `k` of `DFT(x)` (R12). -/
  dft : List (Cx R) → Nat → Cx R
  /-- Element `m` of `IDFT_U(x)` (R12). -/
  idft : List (Cx R) → Nat → Cx R
deriving Inhabited

/-- `SCORE_SRC` (R7): where U3's scores come from. -/
inductive ScoreSrc where
  | internal
  | external
deriving DecidableEq, Repr, Inhabited

/-- `SYNC_METRIC` (R7; 43 R201, R208). -/
inductive SyncMetric where
  | magsq
  | normalized
deriving DecidableEq, Repr, Inhabited

/-- The parameters of one instance (00_scope R7). A field with a constraint is read through the function below that
enforces it: every admissible value passes unchanged, and no inadmissible one is ever used. -/
structure Params where
  numerics : Numerics F32 HReal
  /-- Numerator of `RATE_TOL` as given. -/
  rateTolNum : Nat
  /-- Denominator of `RATE_TOL`, less one. -/
  rateTolDen : Nat
  /-- `ZC_REMOVED_INDEX` as given. -/
  zcRemovedRaw : Nat
  /-- `BURST_PAD` as given. -/
  burstPadRaw : Nat
  scoreSrc : ScoreSrc
  /-- `D_PRE`, any natural. -/
  dPre : Nat
  syncMetric : SyncMetric
  xcMeanRemove : Bool
  /-- `DATA_SYMS` as given. -/
  dataSymsRaw : List Nat
  /-- `BIT_XFORM`: bit `k` of the transformed vector. -/
  bitXform : List Bool → Nat → Bool
  /-- `TURBO_DEC` as given: the status, and bit `k` of the decoded block (46 R274). -/
  turboDecRaw : Streams Int → Nat → Int × (Nat → Bool)
  /-- `TOL` (R7), the tolerance of the spec's testable properties; no operation reads it. -/
  tol : HReal
deriving Inhabited

/-- `RATE_TOL` is a rational with `0 <= RATE_TOL < 7500` (30 R103, D4); the reference value is 0. -/
def Params.rateTol (P : Params) : Nat × Nat :=
  if P.rateTolNum < 7500 * (P.rateTolDen + 1) then (P.rateTolNum, P.rateTolDen + 1) else (0, 1)

/-- `ZC_REMOVED_INDEX` is in `0 .. 600` (D7); the reference value is 300. -/
def Params.zcRemoved (P : Params) : Nat :=
  if P.zcRemovedRaw ≤ 600 then P.zcRemovedRaw else 300

/-- `BURST_PAD` is a natural for which some configuration exists: `FRAME_LEN + BURST_PAD` fits a `u32` at the least
`FRAME_LEN`, 9880 (30 R107; 92, "FRAME_LEN + BURST_PAD fits u32"). -/
def Params.burstPad (P : Params) : Nat :=
  if 9880 + P.burstPadRaw < 2 ^ 32 then P.burstPadRaw else 0

/-- The constraint on `DATA_SYMS` (45 R243): six distinct symbol numbers from 1 .. 9, neither 4 nor 6. -/
def dataSymsOk (l : List Nat) : Bool :=
  l.length == 6 && decide l.Nodup && l.all (fun j => 1 ≤ j && j ≤ 9 && j != 4 && j != 6)

/-- `DATA_SYMS`; the reference value is `[2, 3, 5, 7, 8, 9]` (D24). -/
def Params.dataSyms (P : Params) : List Nat :=
  if dataSymsOk P.dataSymsRaw then P.dataSymsRaw else [2, 3, 5, 7, 8, 9]

/-- The parameters of the instance the machine is. No body: nothing can be proved of a value the spec leaves OPEN. -/
opaque Config.params : Params

/-- Free values of type `c32`: `CHAN[i]` where the received pilot carrier is exactly 0 (44 R221, 70 R386). -/
opaque Config.freeCplx : Nat → C32

/-- Free naturals: `got` where the spec writes `..` (46 R273; log entry 8). -/
opaque Config.freeNat : Nat → Nat

end Sys2Proof
end

