-- ==== Sys2Proof/Syntax.lean ====
section
/-!
DEFINITION. The operations of the block (spec 30_encoding R119), one constructor per row of spec/opcode_table.json, with
the typed operands the rule of each gives (R118, R125: "an operation is its name and its typed operands"), and the form
in which the host issues one: the OPID and the operand values (log entry 9).
-/

namespace Sys2Proof

/-- One operation with its operands, in the order of R119. -/
inductive Instr where
  /-- `RESET()` (48 R322). -/
  | reset
  /-- `CONFIGURE(sample_rate, threshold, pilot_sel)` (48 R321). -/
  | configure (sampleRate : F64) (threshold : F32) (pilotSel : Byte)
  /-- `SET_THRESHOLD(t)` (48 R323). -/
  | setThreshold (t : F32)
  /-- `PROCESS_BLOCK(samples, read_pos [, scores])` (48 R324): its operand list has two forms, and `SCORE_SRC` says which
  one the instance's calls have (R119, R125). -/
  | processBlock (samples : List C32) (readPos : U64) (scores : Option (List F32))
  /-- `PROCESS_BURST(burst, start)` (48 R326). -/
  | processBurst (burst : List C32) (start : U64)
  /-- `GENERATE_ZC(fft_size, root)` (40 R143). -/
  | generateZc (fftSize root : U32)
  /-- `DATA_CARRIER_INDICES(fft_size)` (40 R140). -/
  | dataCarrierIndices (fftSize : U32)
  /-- `ZC_FREQ(root)` (40 R141). -/
  | zcFreq (root : U32)
  /-- `XCORR_INIT(ref)` (41 R160). -/
  | xcorrInit (ref : List C32)
  /-- `XCORR_PUSH(samples, read_pos)` (41 R163). -/
  | xcorrPush (samples : List C32) (readPos : U64)
  /-- `FSM_BLOCK(samples, scores, read_pos)` (42 R182). -/
  | fsmBlock (samples : List C32) (scores : List F32) (readPos : U64)
  /-- `SYNC_ALIGN(burst)` (43 R201). -/
  | syncAlign (burst : List C32)
  /-- `CFO_ESTIMATE(frame)` (43 R204). -/
  | cfoEstimate (frame : List C32)
  /-- `CFO_CORRECT(frame, w)` (43 R205). -/
  | cfoCorrect (frame : List C32) (w : HReal)
  /-- `OFDM_DEMOD(frame)` (44 R220). -/
  | ofdmDemod (frame : List C32)
  /-- `CHAN_EST(syms)` (44 R221). -/
  | chanEst (syms : List (List C32))
  /-- `EQUALIZE(syms, chan)` (44 R222). -/
  | equalize (syms : List (List C32)) (chan : List C32)
  /-- `QPSK_DEMAP(v)` (45 R240). -/
  | qpskDemap (v : C32)
  /-- `BIT_SELECT(bits9)` (45 R243). -/
  | bitSelect (bits9 : List (List Bool))
  /-- `SOFT_MAP(bits)` (46 R260). -/
  | softMap (bits : List Byte)
  /-- `RATE_DEMATCH(soft)` (46 R265). -/
  | rateDematch (soft : List S8)
  /-- `TURBO_DECODE(ds)` (46 R273): the streams of `ds` in order, the first, the second, and those after it. Any number of
  streams may be given; a `ds` that is not 3 streams of 1412 values is the operation's own error. -/
  | turboDecode (d0 d1 : Option (List Int)) (d2 : List (List Int))
  /-- `DECODE(bits)` (46 R282). -/
  | decode (bits : List Byte)
  /-- `CRC24_CHECK(block)` (47 R301). -/
  | crc24Check (block : List Byte)
deriving DecidableEq, Repr

/-- The name of an operation without its operands: the mnemonics of R119. -/
inductive Op where
  | reset | configure | setThreshold | processBlock | processBurst
  | generateZc | dataCarrierIndices | zcFreq
  | xcorrInit | xcorrPush | fsmBlock
  | syncAlign | cfoEstimate | cfoCorrect
  | ofdmDemod | chanEst | equalize | qpskDemap | bitSelect
  | softMap | rateDematch | turboDecode | decode | crc24Check
deriving DecidableEq, Repr, Inhabited

/-- One operand value given with an operation, of one of the types of R8 that R119 uses. -/
inductive Value where
  | u8 (v : Byte)
  | u32 (v : U32)
  | u64 (v : U64)
  | f32 (v : F32)
  | f64 (v : F64)
  | real (v : HReal)
  | cplx (v : C32)
  | c32s (v : List C32)
  | f32s (v : List F32)
  | u8s (v : List Byte)
  | s8s (v : List S8)
  | intGrid (v : List (List Int))
  | cplxGrid (v : List (List C32))
  | bitGrid (v : List (List Bool))
deriving DecidableEq, Repr

/-- One operation as the host issues it: the 8-bit OPID and the operand values (R118). -/
structure Issue where
  opid : Byte
  args : List Value
deriving DecidableEq, Repr

/-- The name of an operation. -/
def Instr.op : Instr → Op
  | .reset => .reset
  | .configure .. => .configure
  | .setThreshold .. => .setThreshold
  | .processBlock .. => .processBlock
  | .processBurst .. => .processBurst
  | .generateZc .. => .generateZc
  | .dataCarrierIndices .. => .dataCarrierIndices
  | .zcFreq .. => .zcFreq
  | .xcorrInit .. => .xcorrInit
  | .xcorrPush .. => .xcorrPush
  | .fsmBlock .. => .fsmBlock
  | .syncAlign .. => .syncAlign
  | .cfoEstimate .. => .cfoEstimate
  | .cfoCorrect .. => .cfoCorrect
  | .ofdmDemod .. => .ofdmDemod
  | .chanEst .. => .chanEst
  | .equalize .. => .equalize
  | .qpskDemap .. => .qpskDemap
  | .bitSelect .. => .bitSelect
  | .softMap .. => .softMap
  | .rateDematch .. => .rateDematch
  | .turboDecode .. => .turboDecode
  | .decode .. => .decode
  | .crc24Check .. => .crc24Check

end Sys2Proof
end

