-- ==== Sys2Proof/WellFormed.lean ====
section
/-!
DEFINITION. Which operand values are values of the operand types of spec 30_encoding R119.

The Lean types carry the scalar types. What is left is the shape of a two-dimensional operand, `cplx[9][600]`,
`cplx[600]` and `bit[9][1200]`, for operations that have no size check of their own (44 R221, R222, 45 R243: "Exceptions:
none"). An operand whose size the operation itself checks (20_memory R75) is any vector: a wrong length is the machine's
own outcome `E_SIZE`, not an ill-formed operation. `TURBO_DECODE` takes any number of streams; no later one is there where an
earlier one is missing.
-/

namespace Sys2Proof

/-- `rows` rows of `cols` values each. -/
def isGrid {α : Type} (rows cols : Nat) (g : List (List α)) : Bool :=
  g.length == rows && g.all (fun row => row.length == cols)

/-- The operands are values of the types R119 gives. -/
def Instr.wf : Instr → Bool
  | .chanEst syms => isGrid 9 600 syms
  | .equalize syms chan => isGrid 9 600 syms && chan.length == 600
  | .bitSelect bits9 => isGrid 9 1200 bits9
  | .turboDecode d0 d1 d2 => (d0.isSome || d1.isNone) && (d1.isSome || d2.isEmpty)
  | .reset | .configure .. | .setThreshold .. | .processBlock .. | .processBurst .. | .generateZc ..
  | .dataCarrierIndices .. | .zcFreq .. | .xcorrInit .. | .xcorrPush .. | .fsmBlock .. | .syncAlign ..
  | .cfoEstimate .. | .cfoCorrect .. | .ofdmDemod .. | .qpskDemap .. | .softMap .. | .rateDematch ..
  | .decode .. | .crc24Check .. => true

end Sys2Proof
end

