-- ==== Sys2Proof/Decode.lean ====
section
/-!
DEFINITION. Reading an issued operation (spec 30_encoding R118 to R121), and writing one.

The decoder takes the 8-bit OPID and the operand values given with it, and answers the operation or a refusal by name:
a reserved OPID spells no operation (R121), and operand values that are not the operation's typed operand list spell none
either (R118, R125). No mode changes how an operation is decoded (R125): `PROCESS_BLOCK` is read with or without its scores,
and the meaning looks at `SCORE_SRC`. The encoder writes the OPID from the same table and the operands in the order of R119.
-/

namespace Sys2Proof

/-- Why an issued operation spells none. -/
inductive DecodeError where
  /-- The OPID is not in R119 (R121). -/
  | reservedOpid (opid : Byte)
  /-- The operand values are not of the types R119 gives the OPID's operation. -/
  | operandMismatch (opid : Byte)
deriving DecidableEq, Repr

/-- The OPID column of R119. -/
def Op.opid : Op → Byte
  | .reset => 0x00 | .configure => 0x01 | .setThreshold => 0x02 | .processBlock => 0x03 | .processBurst => 0x04
  | .generateZc => 0x10 | .dataCarrierIndices => 0x11 | .zcFreq => 0x12
  | .xcorrInit => 0x20 | .xcorrPush => 0x21
  | .fsmBlock => 0x30
  | .syncAlign => 0x40 | .cfoEstimate => 0x41 | .cfoCorrect => 0x42
  | .ofdmDemod => 0x50
  | .chanEst => 0x60 | .equalize => 0x61
  | .qpskDemap => 0x70 | .bitSelect => 0x71
  | .softMap => 0x80 | .rateDematch => 0x81 | .turboDecode => 0x82 | .decode => 0x83
  | .crc24Check => 0x90

/-- The 24 operations, in the order of R119. -/
def Op.all : List Op :=
  [.reset, .configure, .setThreshold, .processBlock, .processBurst, .generateZc, .dataCarrierIndices, .zcFreq,
   .xcorrInit, .xcorrPush, .fsmBlock, .syncAlign, .cfoEstimate, .cfoCorrect, .ofdmDemod, .chanEst, .equalize,
   .qpskDemap, .bitSelect, .softMap, .rateDematch, .turboDecode, .decode, .crc24Check]

/-- The `UNIT` field, bits 7:4 of the OPID (R118). -/
def unitField (opid : Byte) : Nat := opid.toNat / 16

/-- The `FN` field, bits 3:0 of the OPID (R118). -/
def fnField (opid : Byte) : Nat := opid.toNat % 16

/-- The operation an OPID names; none for a reserved one (R121). -/
def Op.ofOpid (opid : Byte) : Option Op := Op.all.find? (fun o => o.opid == opid)

/-- The operation of that name with the given operand values, if they are of its operand types (R119). -/
def Op.withOperands : Op → List Value → Option Instr
  | .reset, [] => some .reset
  | .configure, [.f64 sr, .f32 th, .u8 ps] => some (.configure sr th ps)
  | .setThreshold, [.f32 t] => some (.setThreshold t)
  | .processBlock, [.c32s x, .u64 p] => some (.processBlock x p none)
  | .processBlock, [.c32s x, .u64 p, .f32s sc] => some (.processBlock x p (some sc))
  | .processBurst, [.c32s b, .u64 p] => some (.processBurst b p)
  | .generateZc, [.u32 n, .u32 r] => some (.generateZc n r)
  | .dataCarrierIndices, [.u32 n] => some (.dataCarrierIndices n)
  | .zcFreq, [.u32 r] => some (.zcFreq r)
  | .xcorrInit, [.c32s x] => some (.xcorrInit x)
  | .xcorrPush, [.c32s x, .u64 p] => some (.xcorrPush x p)
  | .fsmBlock, [.c32s x, .f32s sc, .u64 p] => some (.fsmBlock x sc p)
  | .syncAlign, [.c32s b] => some (.syncAlign b)
  | .cfoEstimate, [.c32s f] => some (.cfoEstimate f)
  | .cfoCorrect, [.c32s f, .real w] => some (.cfoCorrect f w)
  | .ofdmDemod, [.c32s f] => some (.ofdmDemod f)
  | .chanEst, [.cplxGrid g] => some (.chanEst g)
  | .equalize, [.cplxGrid g, .c32s c] => some (.equalize g c)
  | .qpskDemap, [.cplx v] => some (.qpskDemap v)
  | .bitSelect, [.bitGrid g] => some (.bitSelect g)
  | .softMap, [.u8s b] => some (.softMap b)
  | .rateDematch, [.s8s x] => some (.rateDematch x)
  | .turboDecode, [.intGrid ds] => some (.turboDecode ds[0]? ds[1]? (ds.drop 2))
  | .decode, [.u8s b] => some (.decode b)
  | .crc24Check, [.u8s b] => some (.crc24Check b)
  | _, _ => none

/-- The operand values of an operation, in the order of R119. -/
def Instr.operands : Instr → List Value
  | .reset => []
  | .configure sr th ps => [.f64 sr, .f32 th, .u8 ps]
  | .setThreshold t => [.f32 t]
  | .processBlock x p none => [.c32s x, .u64 p]
  | .processBlock x p (some sc) => [.c32s x, .u64 p, .f32s sc]
  | .processBurst b p => [.c32s b, .u64 p]
  | .generateZc n r => [.u32 n, .u32 r]
  | .dataCarrierIndices n => [.u32 n]
  | .zcFreq r => [.u32 r]
  | .xcorrInit x => [.c32s x]
  | .xcorrPush x p => [.c32s x, .u64 p]
  | .fsmBlock x sc p => [.c32s x, .f32s sc, .u64 p]
  | .syncAlign b => [.c32s b]
  | .cfoEstimate f => [.c32s f]
  | .cfoCorrect f w => [.c32s f, .real w]
  | .ofdmDemod f => [.c32s f]
  | .chanEst g => [.cplxGrid g]
  | .equalize g c => [.cplxGrid g, .c32s c]
  | .qpskDemap v => [.cplx v]
  | .bitSelect g => [.bitGrid g]
  | .softMap b => [.u8s b]
  | .rateDematch x => [.s8s x]
  | .turboDecode d0 d1 d2 => [.intGrid (d0.toList ++ d1.toList ++ d2)]
  | .decode b => [.u8s b]
  | .crc24Check b => [.u8s b]

/-- Operands of zeros: every scalar 0, every vector of fixed shape filled with zeros, every other vector empty. The
opcode table gives operands no bits (R118), and this is how an OPID alone is read (log entry 26). -/
def Op.zeroOperands : Op → List Value
  | .reset => []
  | .configure => [.f64 0, .f32 0, .u8 0]
  | .setThreshold => [.f32 0]
  | .processBlock => [.c32s [], .u64 0, .f32s []]
  | .processBurst => [.c32s [], .u64 0]
  | .generateZc => [.u32 0, .u32 0]
  | .dataCarrierIndices => [.u32 0]
  | .zcFreq => [.u32 0]
  | .xcorrInit => [.c32s []]
  | .xcorrPush => [.c32s [], .u64 0]
  | .fsmBlock => [.c32s [], .f32s [], .u64 0]
  | .syncAlign => [.c32s []]
  | .cfoEstimate => [.c32s []]
  | .cfoCorrect => [.c32s [], .real 0]
  | .ofdmDemod => [.c32s []]
  | .chanEst => [.cplxGrid (List.replicate 9 (List.replicate 600 Cx.zero))]
  | .equalize => [.cplxGrid (List.replicate 9 (List.replicate 600 Cx.zero)), .c32s (List.replicate 600 Cx.zero)]
  | .qpskDemap => [.cplx Cx.zero]
  | .bitSelect => [.bitGrid (List.replicate 9 (List.replicate 1200 false))]
  | .softMap => [.u8s []]
  | .rateDematch => [.s8s []]
  | .turboDecode => [.intGrid [[], [], []]]
  | .decode => [.u8s []]
  | .crc24Check => [.u8s []]

/-- The operation an issued form spells, or the reason it spells none; total on every byte and every operand list. -/
def decode (w : Issue) : Except DecodeError Instr :=
  match Op.ofOpid w.opid with
  | none => .error (.reservedOpid w.opid)
  | some o =>
    match o.withOperands w.args with
    | none => .error (.operandMismatch w.opid)
    | some i => if i.wf then .ok i else .error (.operandMismatch w.opid)

/-- The issued form of an operation (R119). -/
def encode (i : Instr) : Issue := ⟨i.op.opid, i.operands⟩

/-- The issued form of an operation whose OPID bits are `w`, with operands of zeros. An OPID is 8 bits; a wider number
with a bit above them is no OPID and is read as its low byte with no operand list at all. -/
def issueOfBits (nbits w : Nat) : Issue :=
  let v := w % 2 ^ nbits
  let opid := BitVec.ofNat 8 v
  match Op.ofOpid opid with
  | some o => if v < 256 then ⟨opid, o.zeroOperands⟩ else ⟨opid, [.u8 0, .u8 0, .u8 0, .u8 0]⟩
  | none => ⟨opid, []⟩

/-- The operation the decoder reads from an instruction whose bits are `w`, numbered as spec/opcode_table.json does. -/
def decodeTableWord (nbits w : Nat) : Option Instr :=
  match decode (issueOfBits nbits w) with
  | .ok i => some i
  | .error _ => none

end Sys2Proof
end

