-- ==== Sys2Proof/Machine/State.lean ====
section
/-!
DEFINITION. The state of one instance (spec 10_state), the outcomes it reports (60_exceptions), and power-on.

The registers and buffers that hold a value only while `INST_STATE = READY` (R22) are the fields of `Regs`, the argument of
`Inst.ready`; in `UNCONFIGURED` and `FAILED` they do not exist, which is R22's "holds no value" (log entry 1). A register
that may hold no value while `READY` is an `Option`, as R42 asks. COLLECTED and XC_COUNT are, by R28 and R33, the lengths
of the filled part of BURST_BUF and of HIST; they are stored there once and read by the views below.
-/

namespace Sys2Proof.Machine

open Sys2Proof

/-- The three values of `INST_STATE` (R22, R37). -/
inductive InstState where
  | unconfigured
  | ready
  | failed
deriving DecidableEq, Repr

/-- The outcome codes (60 R341); no other code is ever produced (30 R124). -/
inductive Code where
  | ok
  | eCfgSampleRate
  | eCfgFftSize
  | eCfgZcRoot
  | eCfgSymbolIndex
  | eSize
  | eBitValue
  | eSyncRange
  | eNotReady
  | sCrcFail
  | sDecoderFail
  | nInsufficientData
deriving DecidableEq, Repr

/-- The `detail` of an information record (60 R342). -/
inductive Detail where
  /-- `E_CFG_SAMPLE_RATE`: the operand. -/
  | sampleRate (v : F64)
  /-- `E_CFG_FFT_SIZE`: the candidate size. -/
  | fftSize (n : Nat)
  /-- `E_CFG_ZC_ROOT`: the operand. -/
  | zcRoot (r : U32)
  /-- `E_CFG_SYMBOL_INDEX`: the operand. -/
  | symbolIndex (v : Byte)
  /-- `E_SIZE`. -/
  | size (got expected : Nat)
  /-- `E_BIT_VALUE`: the first offending element. -/
  | bitValue (index : Nat) (value : Byte)
  /-- `E_SYNC_RANGE`: the computed start. -/
  | syncRange (s0 : Int)
  /-- `E_NOT_READY`: the state found. -/
  | notReady (found : InstState)
  /-- `S_CRC_FAIL`: the residual. -/
  | crcResidual (residual : BitVec 24)
  /-- `S_DECODER_FAIL`: the decoder's status. -/
  | decoderStatus (status : Int)
  /-- `N_INSUFFICIENT_DATA`: the samples absorbed so far. -/
  | absorbed (count : Nat)
deriving DecidableEq, Repr

/-- The information record every outcome carries to its issuer (60 R342); `stage` names the innermost operation that
detected it. -/
structure Record where
  code : Code
  stage : Op
  detail : Detail
deriving DecidableEq, Repr

/-- A burst message: the samples, the first of them the trigger's, and its stream position (30 R113). -/
structure Burst where
  samples : List C32
  start : U64
deriving DecidableEq, Repr

/-- A message on an output port (20 R67 to R69). -/
inductive OutMsg where
  /-- `OUT_BURST`. -/
  | burst (b : Burst)
  /-- `OUT_PAYLOAD`: the 176 bytes and the start of the burst they came from. -/
  | payload (bytes : List Byte) (start : U64)
  /-- `OUT_STATUS`. -/
  | status (code : Code) (start : U64)
deriving DecidableEq, Repr

/-- What an operation hands back to its issuer: its results (30 R119), or the record of its outcome (60 R350 (a)). -/
inductive Reply where
  | done
  | error (record : Record)
  | c32s (v : List C32)
  | indices (v : List Nat)
  | c64s (v : List C64)
  | scores (v : List F32)
  | bursts (v : List Burst)
  | sync (pStar : Nat) (s0 : Int)
  | real (v : HReal)
  | grid (v : List (List C32))
  | bitPair (b0 b1 : Bool)
  | bits (v : List Bool)
  | soft (v : List S8)
  | streams (v : Streams Int)
  | decoded (status : Int) (bytes : List Byte)
  | block (bytes : List Byte)
  | crc (ok : Bool) (residual : BitVec 24)
deriving DecidableEq, Repr

/-- `FSM_STATE` (R27), with `START_INDEX`, which holds a value only while collecting (R29). -/
inductive Fsm where
  | waiting
  | collecting (startIndex : U64)
deriving DecidableEq, Repr

/-- The transient registers and buffers (R32, R34); each holds a value only within one `PROCESS_BURST`. -/
structure Transients where
  pStar : Option Nat := none
  s0 : Option Int := none
  cfoW : Option HReal := none
  crcReg : Option (BitVec 24) := none
  decStatus : Option Int := none
  frame : Option (List C32) := none
  syms : Option (List (List C32)) := none
  chan : Option (List C32) := none
  eq : Option (List (List C32)) := none
  bits9 : Option (List (List Bool)) := none
  cbits : Option (List Bool) := none
  soft : Option (List S8) := none
  acc : Option (List Int) := none
  ds : Option (Streams Int) := none
  decBytes : Option (List Byte) := none
deriving DecidableEq, Repr

/-- The registers and buffers of a `READY` instance (R23 to R34). -/
structure Regs where
  /-- `SAMPLE_RATE` (R23). -/
  sampleRate : F64
  /-- `FFT_SIZE`, written `N` (R23). -/
  fftSize : Nat
  /-- `CP_LONG` (R23). -/
  cpLong : Nat
  /-- `CP_SHORT` (R23). -/
  cpShort : Nat
  /-- `FRAME_LEN` (R23). -/
  frameLen : Nat
  /-- `BURST_LEN` (R23). -/
  burstLen : Nat
  /-- `PILOT_SEL` (R23). -/
  pilotSel : Byte
  /-- `ZC_ROOT` (R23). -/
  zcRoot : Nat
  /-- `THRESHOLD` (R24). -/
  threshold : F32
  /-- `THR_LATCH` (R25). -/
  thrLatch : Option F32
  /-- `FSM_STATE` and `START_INDEX` (R27, R29). -/
  fsm : Fsm
  /-- `BURST_BUF`, the elements `0 .. COLLECTED - 1`; the others hold no value (R33). -/
  burstBuf : List C32
  /-- `TAPS_VAR` (R31). -/
  tapsVar : HReal
  /-- `T0` (R31). -/
  t0 : Option U64
  /-- `XC_NEXT` (R31). -/
  xcNext : Nat
  /-- `WIN_ENERGY` (R31). -/
  winEnergy : Option HReal
  /-- `WIN_SUM`, which exists only if `XC_MEAN_REMOVE` (R31). -/
  winSum : Option C64
  /-- `ZC_TIME` (R33). -/
  zcTime : List C32
  /-- `ZC_FREQ` (R33). -/
  zcFreq : List C64
  /-- `DC_IDX` (R33). -/
  dcIdx : List Nat
  /-- `TAPS` (R33). -/
  taps : List C32
  /-- `HIST` (R33): the samples absorbed since `CONFIGURE`, in arrival order. -/
  hist : List C32
  /-- The transients (R32, R34). -/
  trans : Transients
deriving DecidableEq, Repr

/-- `INST_STATE` with what exists in each of its values (R22): `ERR_CODE` in `FAILED`, the registers in `READY`. -/
inductive Inst where
  | unconfigured
  | ready (regs : Regs)
  | failed (errCode : Code)
deriving DecidableEq, Repr

/-- The state of one instance, its ports, and the model's own `reply` and `drawn` (log entries 12 and 7). -/
structure State where
  /-- `INST_STATE` and everything that exists in its value. -/
  inst : Inst
  /-- `LAST_STATUS` (R36). -/
  lastStatus : Code
  /-- The operations the host has issued and the block has not yet taken, in issue order (00 R15; 20 R64 to R66). -/
  issued : List Issue
  /-- The messages sent, in sending order (20 R67 to R69, R82). -/
  out : List OutMsg
  /-- What the last operation handed back to its issuer (60 R342, R350 (a)). -/
  reply : Option Reply
  /-- How many free values have been drawn. -/
  drawn : Nat
deriving DecidableEq, Repr

/-- Why the machine stops. No run reaches either. -/
inductive Fault where
  /-- An index outside its buffer (20 R62: it "never occurs and has no defined behaviour; a model should make it
  unrepresentable or a fault"). Raised by `MemRead` and by a gather, only from configuration registers that no
  `CONFIGURE` wrote. Safe. -/
  | bufferRange
  /-- A register that holds no value is read (10 R42: it "is never read by any rule before it is written"). Raised by
  `PROCESS_BLOCK` for `T0`, only when samples are held that no `XCORR_PUSH` absorbed. Safe. -/
  | absentRegister
deriving DecidableEq, Repr

/-- Why an issued form is not an operation of the block. -/
inductive Refusal where
  /-- `exec` has no meaning for the operation yet. Raised by an arm of `exec` that names it. Safe. -/
  | notModelled (mnemonic : String)
  /-- A reserved OPID (30 R121: "a decoder ... refuses it (it spells no operation)"). Raised by `step`. Safe. -/
  | reservedOpid (opid : Byte)
  /-- Operand values that are not the operation's typed operand list (30 R118, R125). Raised by `step`. Safe. -/
  | operandMismatch (opid : Byte)
deriving DecidableEq, Repr

/-- Power-on (R38, R42): `UNCONFIGURED`, `LAST_STATUS` 0, no other register holds a value, all ports empty. -/
def State.reset : State where
  inst := .unconfigured
  lastStatus := .ok
  issued := []
  out := []
  reply := none
  drawn := 0

/-- `COLLECTED` (R28). -/
def Regs.collected (r : Regs) : Nat := r.burstBuf.length

/-- `XC_COUNT` (R31, R33). -/
def Regs.xcCount (r : Regs) : Nat := r.hist.length

/-- `START_INDEX` (R29). -/
def Regs.startIndex (r : Regs) : Option U64 :=
  match r.fsm with
  | .waiting => none
  | .collecting k => some k

/-- `INST_STATE` (R22). -/
def State.instState (s : State) : InstState :=
  match s.inst with
  | .unconfigured => .unconfigured
  | .ready _ => .ready
  | .failed _ => .failed

/-- `ERR_CODE` (R22): the code of the configuration error in `FAILED`, and 0 in the other two states. -/
def State.errCode (s : State) : Code :=
  match s.inst with
  | .failed c => c
  | .unconfigured | .ready _ => .ok

/-- The registers that hold a value only while `READY`. -/
def State.regs? (s : State) : Option Regs :=
  match s.inst with
  | .ready r => some r
  | .unconfigured | .failed _ => none

end Sys2Proof.Machine
end

