-- ==== Sys2Proof/Machine/Ops.lean ====
section
/-!
DEFINITION. The operations every meaning is built from: the updates of the state, the buffer accesses of spec 00_scope R13
and 20_memory R87, the ports (20_memory section 2), and raising an outcome (60_exceptions R350), which is this hardware's
trap entry. There is no trap return (60 R355).
-/

namespace Sys2Proof.Machine

open Sys2Proof

/-- What a meaning answers. -/
abbrev Answer := Host.Outcome State Fault Refusal

/-! ### Updates of the state -/

/-- Hands a reply to the issuer (60 R350 (a)). -/
def State.withReply (s : State) (r : Reply) : State := { s with reply := some r }

/-- `send(PORT, m)` (00 R13): puts a message on its output port. -/
def State.send (s : State) (m : OutMsg) : State := { s with out := s.out ++ [m] }

/-- `LAST_STATUS <- code` (10 R36). -/
def State.withStatus (s : State) (c : Code) : State := { s with lastStatus := c }

/-- Writes `INST_STATE` and what exists in its new value (10 R22). -/
def State.withInst (s : State) (i : Inst) : State := { s with inst := i }

/-- Writes the registers of a `READY` instance. -/
def State.withRegs (s : State) (r : Regs) : State := s.withInst (.ready r)

/-- Records that `n` free values have been drawn. -/
def State.draw (s : State) (n : Nat) : State := { s with drawn := s.drawn + n }

/-- Takes the first issued operation off the input ports (20 R77: taking a message consumes it). -/
def State.takeIssue (s : State) : State := { s with issued := s.issued.tail }

/-! ### The output ports, one by one (20 R67 to R69) -/

/-- The messages on `OUT_BURST`, in order. -/
def State.outBurst (s : State) : List Burst :=
  s.out.filterMap fun m => match m with | .burst b => some b | .payload .. | .status .. => none

/-- The messages on `OUT_PAYLOAD`, in order. -/
def State.outPayload (s : State) : List (List Byte × U64) :=
  s.out.filterMap fun m => match m with | .payload b k => some (b, k) | .burst _ | .status .. => none

/-- The messages on `OUT_STATUS`, in order. -/
def State.outStatus (s : State) : List (Code × U64) :=
  s.out.filterMap fun m => match m with | .status c k => some (c, k) | .burst _ | .payload .. => none

/-! ### Outcomes -/

/-- The code column of 60 R341. -/
def Code.byte : Code → Byte
  | .ok => 0x00
  | .eCfgSampleRate => 0x01 | .eCfgFftSize => 0x02 | .eCfgZcRoot => 0x03 | .eCfgSymbolIndex => 0x04
  | .eSize => 0x10 | .eBitValue => 0x11 | .eSyncRange => 0x12 | .eNotReady => 0x13
  | .sCrcFail => 0x20 | .sDecoderFail => 0x21
  | .nInsufficientData => 0x30

/-- `E_SIZE` (60 R345). -/
def sizeError (stage : Op) (got expected : Nat) : Record := ⟨.eSize, stage, .size got expected⟩

/-- Raising an outcome from a directly issued unit operation, or from `SET_THRESHOLD`: the record goes to the issuer and
nothing else changes (60 R350, R347). -/
def State.raiseDirect (s : State) (e : Record) : State := s.withReply (.error e)

/-- Raising an outcome from an operation of the processing agent (60 R350 (a), (b)): the record goes to the issuer,
`LAST_STATUS` takes the code, and one message `(code, 0)` is sent on `OUT_STATUS` (20 R69). -/
def State.raiseAgent (s : State) (e : Record) : State :=
  ((s.withStatus e.code).send (.status e.code 0)).withReply (.error e)

/-- Raising a configuration error from `CONFIGURE` (60 R343, R350 (c); 10 R40): the instance fails with the code, and no
register holds a value any more. -/
def State.raiseConfig (s : State) (e : Record) : State := (s.raiseAgent e).withInst (.failed e.code)

/-- `E_NOT_READY` (60 R347). -/
def notReadyError (stage : Op) (s : State) : Record := ⟨.eNotReady, stage, .notReady s.instState⟩

/-- Runs the body of an operation of the processing agent if the instance is `READY`, and raises `E_NOT_READY` otherwise,
before anything else (60 R347, R353). -/
def agentOp (stage : Op) (s : State) (body : Regs → Answer) : Answer :=
  match s.inst with
  | .ready r => body r
  | .unconfigured | .failed _ => .next (s.raiseAgent (notReadyError stage s))

/-- The same for a directly issued unit operation and for `SET_THRESHOLD` (60 R347, R350). -/
def directOp (stage : Op) (s : State) (body : Regs → Answer) : Answer :=
  match s.inst with
  | .ready r => body r
  | .unconfigured | .failed _ => .next (s.raiseDirect (notReadyError stage s))

/-- The end of a directly issued operation that has its result or its error record. -/
def State.finish (s : State) (x : Except Record Reply) : State :=
  match x with
  | .ok v => s.withReply v
  | .error e => s.raiseDirect e

/-- Goes on with a value, or stops with the fault that says why there is none. -/
def orFault {α : Type} (f : Fault) (x : Option α) (body : α → Answer) : Answer :=
  match x with
  | some v => body v
  | none => .fault f

/-! ### Buffers (00 R13, 20 R62, R87) -/

/-- `MemRead(BUF, i, n)`: the elements `i .. i + n - 1`, all of which must exist (00 R13). -/
def memRead {α : Type} (buf : List α) (i n : Nat) : Option (List α) :=
  if i + n ≤ buf.length then some ((buf.drop i).take n) else none

/-- The gather `BUF[idx[0]], BUF[idx[1]], ...` (20 R87). -/
def gather {α : Type} (buf : List α) : List Nat → Option (List α)
  | [] => some []
  | i :: is =>
    match buf[i]?, gather buf is with
    | some v, some vs => some (v :: vs)
    | _, _ => none

/-- The scatter `BUF[k] <- v` for each pair `(k, v)`, in order (20 R87). -/
def scatter {α : Type} (buf : List α) (kvs : List (Nat × α)) : List α :=
  kvs.foldl (fun b kv => b.set kv.1 kv.2) buf

/-- The scatter with addition `BUF[k] <- BUF[k] + v` for each pair `(k, v)`, in order (46 R265). -/
def scatterAdd (buf : List Int) (kvs : List (Nat × Int)) : List Int :=
  kvs.foldl (fun b kv => b.modify kv.1 (· + kv.2)) buf

/-- `SHIFT(x)[k] = x[(k + n/2) mod n]`, the swap of the halves (00 R12). -/
def swapHalves {α : Type} (x : List α) : List α := x.drop (x.length / 2) ++ x.take (x.length / 2)

/-- `argmax_first` (00 R13): the least `p` with `M[p] >= M[q]` for every `q`, and 0 if there is none (43 R201). -/
def argmaxFirst {R : Type} (ge : R → R → Bool) (m : List R) : Nat :=
  (m.findIdx? (fun x => m.all (fun y => ge x y))).getD 0

/-! ### The register table (10 R37) -/

/-- What a register number names: nothing, a register that holds no value, or a register's width and value. -/
inductive RegView where
  | reserved
  | noValue
  | value (width : Nat) (v : Nat)
deriving DecidableEq, Repr

/-- The encoding of `INST_STATE` (10 R37). -/
def InstState.bits : InstState → Nat
  | .unconfigured => 0
  | .ready => 1
  | .failed => 2

/-- The register a number of 10 R37 labels, as it stands in a state. No operation reads a register by number. -/
def State.register (s : State) (number : Nat) : RegView :=
  let field (width : Nat) (f : Regs → Option Nat) : RegView :=
    match s.regs?.bind f with
    | some v => .value width v
    | none => .noValue
  match number with
  | 0x00 => .value 2 s.instState.bits
  | 0x01 => .value 8 s.errCode.byte.toNat
  | 0x02 => field 64 fun r => some r.sampleRate.toNat
  | 0x03 => field 32 fun r => some r.fftSize
  | 0x04 => field 32 fun r => some r.cpLong
  | 0x05 => field 32 fun r => some r.cpShort
  | 0x06 => field 32 fun r => some r.frameLen
  | 0x07 => field 32 fun r => some r.burstLen
  | 0x08 => field 8 fun r => some r.pilotSel.toNat
  | 0x09 => field 32 fun r => some r.zcRoot
  | 0x0A => field 32 fun r => some r.threshold.toNat
  | 0x0B => field 1 fun r => match r.fsm with | .waiting => some 0 | .collecting _ => some 1
  | 0x0C => field 32 fun r => some r.collected
  | 0x0D => field 64 fun r => r.startIndex.map BitVec.toNat
  | 0x0E => .value 8 s.lastStatus.byte.toNat
  | _ => .reserved

end Sys2Proof.Machine
end

