-- ==== Sys2Proof/Machine/Operands.lean ====
section
/-!
DEFINITION. How every size and position is assembled from the configuration (spec 30_encoding section 3), and the exact
value of an `f64` operand. This is the hardware's analogue of operand forms.
-/

namespace Sys2Proof.Machine

open Sys2Proof

/-! ### The value of an `f64` (30 R103) -/

/-- A finite `f64` greater than 0 as the exact quotient of two naturals; none for a NaN, an infinity, a zero or a negative
number (R103: "not a finite number greater than 0"). -/
def f64Positive (x : F64) : Option (Nat × Nat) :=
  let sign := x.toNat / 2 ^ 63
  let expo := x.toNat / 2 ^ 52 % 2 ^ 11
  let frac := x.toNat % 2 ^ 52
  if sign = 1 ∨ expo = 2047 ∨ (expo = 0 ∧ frac = 0) then none
  else if expo = 0 then some (frac, 2 ^ 1074)
  else if 1075 ≤ expo then some ((2 ^ 52 + frac) * 2 ^ (expo - 1075), 1)
  else some (2 ^ 52 + frac, 2 ^ (1075 - expo))

/-- The integer nearest to `num / (15000 * den)`. A tie cannot pass the tolerance test that follows, because
`RATE_TOL < 7500` (R103). -/
def nearestSize (num den : Nat) : Nat := (2 * num + 15000 * den) / (30000 * den)

/-- `abs(num / den - 15000 * n) > RATE_TOL`, with `RATE_TOL = tol.1 / tol.2` (R103). -/
def offRate (tol : Nat × Nat) (num den n : Nat) : Bool :=
  tol.1 * den < (num - 15000 * n * den + (15000 * n * den - num)) * tol.2

/-- `N` is a power of two and at least 1024 (30 R103, 40 R140, R143). -/
def fftSizeOk (n : Nat) : Bool := n == 2 ^ n.log2 && 1024 ≤ n

/-- `E_CFG_FFT_SIZE(n)`. -/
def fftSizeError (stage : Op) (n : Nat) : Record := ⟨.eCfgFftSize, stage, .fftSize n⟩

/-- The FFT size of a sample rate (30 R103), the first failed check deciding the code (60 R353). -/
def fftSizeOf (P : Params) (sampleRate : F64) : Except Record Nat :=
  let rateError : Record := ⟨.eCfgSampleRate, .configure, .sampleRate sampleRate⟩
  match f64Positive sampleRate with
  | none => .error rateError
  | some (num, den) =>
    let n := nearestSize num den
    if offRate P.rateTol num den n then .error rateError
    else if fftSizeOk n then .ok n
    else .error (fftSizeError .configure n)

/-! ### Rounding an `f64` to the nearest `f32` (40 R143, D10) -/

/-- The magnitude of a finite `f64`, in units of `2^-1074`. -/
def f64Units (x : F64) : Nat :=
  let expo := x.toNat / 2 ^ 52 % 2 ^ 11
  let frac := x.toNat % 2 ^ 52
  if expo = 0 then frac else (2 ^ 52 + frac) * 2 ^ (expo - 1)

/-- The magnitude of the `f32` whose bits 30 to 0 are `p`, in units of `2^-1074`. -/
def f32Units (p : Nat) : Nat :=
  let expo := p / 2 ^ 23
  let frac := p % 2 ^ 23
  (if expo = 0 then frac else (2 ^ 23 + frac) * 2 ^ (expo - 1)) * 2 ^ 925

/-- Bits 30 to 0 of the greatest `f32` whose magnitude is at most `m` units. -/
def f32Below (m : Nat) : Nat :=
  let q := m / 2 ^ 925
  let e := q.log2 - 23
  e * 2 ^ 23 + q / 2 ^ e

/-- The pattern of sign bit `sign` and bits 30 to 0 `p`. -/
def f32Signed (sign p : Nat) : F32 := BitVec.ofNat 32 (sign * 2 ^ 31 + p)

/-- `x` rounded to the nearest `f32`. Where two are equally near, either may be the result, and `free` says which; for a NaN,
an infinity and a value beyond the greatest finite `f32` the result is `free`'s (log entry 25). -/
def roundNearest (free : F64 → F32) (x : F64) : F32 :=
  let m := f64Units x
  let p := f32Below m
  let sign := x.toNat / 2 ^ 63
  let down := f32Signed sign p
  let up := f32Signed sign (p + 1)
  if x.toNat / 2 ^ 52 % 2 ^ 11 = 2047 ∨ f32Units 0x7F7FFFFF < m then free x
  else if m - f32Units p < f32Units (p + 1) - m then down
  else if f32Units (p + 1) - m < m - f32Units p then up
  else if free x = down ∨ free x = up then free x
  else if p % 2 = 0 then down else up

/-! ### Sizes (30 R104 to R107) -/

/-- `CP_LONG = 5 * N / 64` (R104). -/
def cpLongOf (n : Nat) : Nat := 5 * n / 64

/-- `CP_SHORT = 9 * N / 128` (R104). -/
def cpShortOf (n : Nat) : Nat := 9 * n / 128

/-- `FRAME_LEN = 9 * N + 2 * CP_LONG + 7 * CP_SHORT` (R106). -/
def frameLenOf (n : Nat) : Nat := 9 * n + 2 * cpLongOf n + 7 * cpShortOf n

/-- `BURST_LEN = FRAME_LEN + BURST_PAD` (R107). -/
def burstLenOf (P : Params) (n : Nat) : Nat := frameLenOf n + P.burstPad

/-- `zc_root_of_symbol` (R109): the ZC root of a pilot symbol; no other symbol has one. -/
def zcRootOfSymbol (symbol : Nat) : Option Nat :=
  match symbol with
  | 4 => some 600
  | 6 => some 147
  | _ => none

/-! ### The frame layout (30 R105, R110, R111) -/

/-- The three sizes the layout of a frame is made of. -/
structure Layout where
  n : Nat
  cpLong : Nat
  cpShort : Nat
deriving DecidableEq, Repr

/-- The layout the configuration registers give. -/
def Regs.layout (r : Regs) : Layout := ⟨r.fftSize, r.cpLong, r.cpShort⟩

/-- `cp(j)`: long before the first and the last symbol, short before the seven between (R105). -/
def Layout.cp (l : Layout) (j : Nat) : Nat := if j = 1 ∨ j = 9 then l.cpLong else l.cpShort

/-- `sym_cp_start(j) = sum_{i=1..j-1} (cp(i) + N)` (R110). -/
def Layout.symCpStart (l : Layout) (j : Nat) : Nat :=
  ((List.range (j - 1)).map fun i => l.cp (i + 1) + l.n).sum

/-- `sym_useful_start(j) = sym_cp_start(j) + cp(j)` (R110). -/
def Layout.symUsefulStart (l : Layout) (j : Nat) : Nat := l.symCpStart j + l.cp j

/-- `SYNC_OFFSET = sym_useful_start(PILOT_SEL)` (R111). -/
def Layout.syncOffset (l : Layout) (pilot : Nat) : Nat := l.symUsefulStart pilot

/-- Checks the length of a sized operand, before anything else is done with it (60 R345). -/
def checkSize {α β : Type} (stage : Op) (v : List α) (expected : Nat) (body : Except Record β) : Except Record β :=
  if v.length = expected then body else .error (sizeError stage v.length expected)

end Sys2Proof.Machine
end

