-- ==== Sys2Proof/Machine/Flags.lean ====
section
/-!
DEFINITION. The block has no condition codes (spec 10_state R36). What decides, on a value the hardware holds as an `f32`,
is the IEEE-754 comparison of two patterns: the threshold test (42 R187) and the sign tests of the demapper (45 R240). The
field layout of a binary32 is 30 R100.
-/

namespace Sys2Proof.Machine

open Sys2Proof

/-- Bits 30 to 0 of a binary32: exponent and fraction, which order the magnitudes. -/
def f32Magnitude (x : F32) : Nat := x.toNat % 2 ^ 31

/-- A binary32 is a NaN: exponent all ones, fraction not zero. -/
def f32IsNan (x : F32) : Bool := 0x7F800000 < f32Magnitude x

/-- A number that orders the binary32 values that are not NaN as their values are ordered; both zeros give 0. -/
def f32Rank (x : F32) : Int := if x.toNat < 2 ^ 31 then (f32Magnitude x : Int) else -(f32Magnitude x : Int)

/-- `x > y` of IEEE-754: false if either is a NaN, and `-0 = +0` (42 R187). -/
def f32Gt (x y : F32) : Bool := !f32IsNan x && !f32IsNan y && decide (f32Rank y < f32Rank x)

/-- `x > 0` (45 R240). -/
def f32Pos (x : F32) : Bool := f32Gt x 0

/-- `x < 0` (45 R240). -/
def f32Neg (x : F32) : Bool := f32Gt 0 x

end Sys2Proof.Machine
end

