-- ==== Sys2Proof/Machine/ZcGenerator.lean ====
section
/-!
DEFINITION. Unit U1 (spec 40_zc_sequence_generator): DATA_CARRIER_INDICES, ZC_FREQ, GENERATE_ZC. All three are pure.
-/

namespace Sys2Proof.Machine

open Sys2Proof

/-- The bins of the 600 data carriers after the half swap, in increasing order: the 300 left of `N/2`, then the 300 right
of it (R140). -/
def carrierIndices (n : Nat) : List Nat :=
  (List.range 600).map fun i => if i < 300 then n / 2 - 300 + i else n / 2 - 299 + i

/-- `DATA_CARRIER_INDICES` with its check (R140). -/
def dataCarrierIndices (stage : Op) (n : Nat) : Except Record (List Nat) :=
  if fftSizeOk n then .ok (carrierIndices n) else .error (fftSizeError stage n)

/-- `z[n] = cexp(-pi * r * n * (n + 1) / 601)` for `n` in `0 .. 600`, the product formed as an integer (R141). -/
def zcSequence {S R : Type} (ν : Numerics S R) (root : Nat) : List (Cx R) :=
  (List.range 601).map fun n => ν.cexpPi (-((root * n * (n + 1) : Nat) : Int)) 601

/-- `ZC_FREQ` for a legal root: the 601 values without the one at `ZC_REMOVED_INDEX` (R141, D7). -/
def zcFrequency {S R : Type} (ν : Numerics S R) (removed root : Nat) : List (Cx R) :=
  (zcSequence ν root).eraseIdx removed

/-- The spectrum of the reference: the 600 values on the data-carrier bins, every other bin zero (R143). -/
def zcSpectrum {R : Type} [OfNat R 0] (n : Nat) (y : List (Cx R)) : List (Cx R) :=
  scatter (List.replicate n Cx.zero) ((carrierIndices n).zip y)

/-- The reference before its final rounding: half swap, unscaled inverse transform, division by `N` (R143, D9). -/
def zcTimeExact {S R : Type} [OfNat R 0] (ν : Numerics S R) (n : Nat) (y : List (Cx R)) : List (Cx R) :=
  (List.range n).map fun m => ν.cdivNat (ν.idft (swapHalves (zcSpectrum n y)) m) n

/-- `GENERATE_ZC` for a legal size and the values of a legal root: every value is `c64`, and the result is rounded once, to
nearest (R143, D10). -/
def zcTime (ν : Numerics F32 HReal) (n : Nat) (y : List C64) : List C32 :=
  (zcTimeExact ν n y).map fun t => ⟨roundNearest ν.roundOpen t.re, roundNearest ν.roundOpen t.im⟩

/-- `r = 600` or `r = 147` (R141). -/
def zcRootOk (root : Nat) : Bool := root == 600 || root == 147

/-- `ZC_FREQ` with its check (R141). -/
def zcFreqOf (P : Params) (root : U32) : Except Record (List C64) :=
  if zcRootOk root.toNat then .ok (zcFrequency P.numerics P.zcRemoved root.toNat)
  else .error ⟨.eCfgZcRoot, .zcFreq, .zcRoot root⟩

/-- `GENERATE_ZC` with its checks, the size before the root (R143, 60 R353). The root's check is `ZC_FREQ`'s, the innermost
operation that detects it (60 R342). -/
def generateZcOf (P : Params) (fftSize root : U32) : Except Record (List C32) :=
  if fftSizeOk fftSize.toNat then
    match zcFreqOf P root with
    | .ok y => .ok (zcTime P.numerics fftSize.toNat y)
    | .error e => .error e
  else .error (fftSizeError .generateZc fftSize.toNat)

/-- `GENERATE_ZC` issued directly (R143, 60 R350). -/
def execGenerateZc (fftSize root : U32) (s : State) : Answer :=
  directOp .generateZc s fun _ => .next (s.finish ((generateZcOf Config.params fftSize root).map Reply.c32s))

/-- `DATA_CARRIER_INDICES` issued directly (R140, 60 R350). -/
def execDataCarrierIndices (fftSize : U32) (s : State) : Answer :=
  directOp .dataCarrierIndices s fun _ =>
    .next (s.finish ((dataCarrierIndices .dataCarrierIndices fftSize.toNat).map Reply.indices))

/-- `ZC_FREQ` issued directly (R141, 60 R350). -/
def execZcFreq (root : U32) (s : State) : Answer :=
  directOp .zcFreq s fun _ => .next (s.finish ((zcFreqOf Config.params root).map Reply.c64s))

end Sys2Proof.Machine
end

