-- ==== Sys2Proof/Machine/Correlator.lean ====
section
/-!
DEFINITION. Unit U2, the normalized cross-correlator (spec 41_cross_correlator): XCORR_INIT, XCORR_PUSH. The window length
`W` is the number of stored taps; at `CONFIGURE` that is `N` (00 R7; log entry 16).
-/

namespace Sys2Proof.Machine

open Sys2Proof

/-- A `c32` value read as a complex value of the working precision. -/
def widenC {S R : Type} (ν : Numerics S R) (z : Cx S) : Cx R := ⟨ν.widen z.re, ν.widen z.im⟩

/-- A complex value rounded to `c32`. -/
def narrowC {S R : Type} (ν : Numerics S R) (z : Cx R) : Cx S := ⟨ν.narrow z.re, ν.narrow z.im⟩

/-- `ref[k] - mu` for every `k`, with `mu = mean(ref)` (R160). -/
def centred {S R : Type} (ν : Numerics S R) (ref : List (Cx S)) : List (Cx R) :=
  let x := ref.map (widenC ν)
  let mu := ν.cdivNat (ν.csum x) x.length
  x.map fun z => ν.csub z mu

/-- `TAPS`: the conjugated, mean-centred reference (R160). -/
def xcorrTaps {S R : Type} (ν : Numerics S R) (ref : List (Cx S)) : List (Cx S) :=
  (centred ν ref).map fun z => narrowC ν (ν.conj z)

/-- `TAPS_VAR`: the population variance of the reference (R160, R161). -/
def xcorrTapsVar {S R : Type} (ν : Numerics S R) (ref : List (Cx S)) : R :=
  ν.divNat (ν.energy (centred ν ref)) ref.length

/-- The running sums of the window whose score is produced next: `WIN_ENERGY`, and `WIN_SUM` where it exists (10 R31). -/
structure Window (R : Type) where
  energy : R
  sum : Option (Cx R)
deriving DecidableEq, Repr

/-- The running sums of the first window (R163). -/
def Window.first {S R : Type} (ν : Numerics S R) (meanRemove : Bool) (x : List (Cx R)) : Window R :=
  ⟨ν.energy x, if meanRemove then some (ν.csum x) else none⟩

/-- The mean `m` of a window: `WIN_SUM / W` where `WIN_SUM` exists, and 0 where it does not (R163). -/
def Window.mean {S R : Type} [OfNat R 0] (ν : Numerics S R) (w : Window R) (len : Nat) : Cx R :=
  match w.sum with
  | some t => ν.cdivNat t len
  | none => Cx.zero

/-- The running-sum update: the arriving sample added, the leaving one subtracted (R163, R164). -/
def Window.slide {S R : Type} (ν : Numerics S R) (w : Window R) (arriving leaving : Cx R) : Window R :=
  ⟨ν.sub (ν.add w.energy (ν.abs2 arriving)) (ν.abs2 leaving),
   w.sum.map fun t => ν.csub (ν.cadd t arriving) leaving⟩

/-- The quotient of R162 and R163, `abs2(dot) / (W*W * TAPS_VAR * v)`, and exactly 0 where `TAPS_VAR * v = 0` (R165). -/
def normalizedScore {S R : Type} [OfNat R 0] (ν : Numerics S R) (len : Nat) (tapsVar : R) (dot : Cx R) (v : R) : R :=
  if ν.isZero (ν.mul tapsVar v) then 0
  else ν.div (ν.abs2 dot) (ν.mul (ν.mul (ν.ofNat (len * len)) tapsVar) v)

/-- The score of one window of samples `x` with running sums `w` (R163): the variance is `WIN_ENERGY / W - abs2(m)`, and a
window with `TAPS_VAR * v = 0` scores the `f32` 0 (R165). -/
def windowScore {S R : Type} [OfNat S 0] [OfNat R 0] (ν : Numerics S R) (taps : List (Cx S)) (tapsVar : R)
    (w : Window R) (x : List (Cx S)) : S :=
  let len := taps.length
  let dot := ν.dot ((x.map (widenC ν)).zip (taps.map (widenC ν)))
  let v := ν.sub (ν.divNat w.energy len) (ν.abs2 (w.mean ν len))
  if ν.isZero (ν.mul tapsVar v) then 0 else ν.narrow (normalizedScore ν len tapsVar dot v)

/-- The loop of R163 on `rest = HIST[XC_NEXT ..]`: while sample `X[XC_NEXT + W]` has arrived, one score, then the
running-sum update. Answers the scores in order and the running sums of the next window. -/
def xcorrLoop {S R : Type} [OfNat S 0] [OfNat R 0] (ν : Numerics S R) (meanRemove : Bool) (taps : List (Cx S))
    (tapsVar : R) : List (Cx S) → Option (Window R) → List S × Option (Window R)
  | [], win => ([], win)
  | x :: xs, win =>
    match (x :: xs).drop taps.length with
    | [] => ([], win)
    | arriving :: _ =>
      let window := (x :: xs).take taps.length
      let w := match win with
        | some w => w
        | none => Window.first ν meanRemove (window.map (widenC ν))
      let score := windowScore ν taps tapsVar w window
      let (scores, win') := xcorrLoop ν meanRemove taps tapsVar xs
        (some (w.slide ν (widenC ν arriving) (widenC ν x)))
      (score :: scores, win')

/-- `score[i]` of R162 for a window, computed from the window itself and not from running sums: the metric `NORMALIZED` of
`SYNC_ALIGN` (43 R208; log entry 21). Where window and taps differ in length, which a directly issued `XCORR_INIT` can
bring about, the dot product is over the shorter of the two: the model's choice, log entry 32. -/
def directScore {S R : Type} [OfNat R 0] (ν : Numerics S R) (meanRemove : Bool) (taps : List (Cx S)) (tapsVar : R)
    (len : Nat) (window : List (Cx S)) : R :=
  let x := window.map (widenC ν)
  let m := if meanRemove then ν.cdivNat (ν.csum x) len else Cx.zero
  let dev := x.map fun z => ν.csub z m
  normalizedScore ν len tapsVar (ν.dot (dev.zip (taps.map (widenC ν)))) (ν.divNat (ν.energy dev) len)

/-- The running sums the registers hold. -/
def Regs.window (r : Regs) : Option (Window HReal) := r.winEnergy.map fun e => ⟨e, r.winSum⟩

/-- `XCORR_INIT` on the registers (R160): `TAPS` and `TAPS_VAR`, nothing else. -/
def Regs.xcorrInit (P : Params) (r : Regs) (ref : List C32) : Regs :=
  { r with taps := xcorrTaps P.numerics ref, tapsVar := xcorrTapsVar P.numerics ref }

/-- `XCORR_PUSH` on the registers (R163): the new registers and the scores. `T0` is latched while nothing has been
absorbed, and the number of scores is the advance of `XC_NEXT`. -/
def Regs.xcorrPush (P : Params) (r : Regs) (samples : List C32) (readPos : U64) : Regs × List F32 :=
  let hist := r.hist ++ samples
  let (scores, win) := xcorrLoop P.numerics P.xcMeanRemove r.taps r.tapsVar (hist.drop r.xcNext) r.window
  ({ r with
      t0 := if r.xcCount = 0 then some readPos else r.t0
      hist := hist
      xcNext := r.xcNext + scores.length
      winEnergy := win.map (·.energy)
      winSum := win.bind (·.sum) }, scores)

/-- `XCORR_INIT` issued directly (R160). -/
def execXcorrInit (ref : List C32) (s : State) : Answer :=
  directOp .xcorrInit s fun r => .next ((s.withRegs (r.xcorrInit Config.params ref)).withReply .done)

/-- `XCORR_PUSH` issued directly (R163). -/
def execXcorrPush (samples : List C32) (readPos : U64) (s : State) : Answer :=
  directOp .xcorrPush s fun r =>
    let (r', scores) := r.xcorrPush Config.params samples readPos
    .next ((s.withRegs r').withReply (.scores scores))

end Sys2Proof.Machine
end

