-- ==== Sys2Proof/Machine/BurstDetector.lean ====
section
/-!
DEFINITION. Unit U3, the burst detector state machine (spec 42_burst_detector_fsm): FSM_BLOCK. It holds the block's only
control flow (48 R328 (a)); `Fsm` is the analogue of a program counter (10_state section 5).
-/

namespace Sys2Proof.Machine

open Sys2Proof

/-- What U3 keeps between samples: `FSM_STATE` with `START_INDEX`, and the filled part of `BURST_BUF`. -/
structure Detector where
  fsm : Fsm
  buf : List C32
deriving DecidableEq, Repr

/-- `WAITING_FOR_THRESHOLD` with an empty buffer (R180, R186). -/
def Detector.idle : Detector := ⟨.waiting, []⟩

/-- The fullness test after a sample has been stored (R182, D16 (a)): a full buffer is emitted and U3 returns to
`WAITING_FOR_THRESHOLD` with nothing collected. -/
def Detector.flush (burstLen : Nat) (d : Detector) : Detector × Option Burst :=
  match d.fsm with
  | .waiting => (d, none)
  | .collecting start => if d.buf.length = burstLen then (.idle, some ⟨d.buf, start⟩) else (d, none)

/-- One sample step of R182, the transition table of R183: a trigger stores the sample at index 0 of a fresh buffer and
records its position; while collecting the score is not examined. -/
def Detector.sample (burstLen : Nat) (thr : F32) (pos : U64) (x : C32) (score : F32) (d : Detector) :
    Detector × Option Burst :=
  match d.fsm with
  | .waiting => if f32Gt score thr then Detector.flush burstLen ⟨.collecting pos, [x]⟩ else (d, none)
  | .collecting start => Detector.flush burstLen ⟨.collecting start, d.buf ++ [x]⟩

/-- The loop of R182 over the samples of a block, strictly in arrival order; positions advance modulo 2^64 (10 R30). -/
def Detector.run (burstLen : Nat) (thr : F32) : U64 → List (C32 × F32) → Detector → Detector × List Burst
  | _, [], d => (d, [])
  | pos, (x, score) :: rest, d =>
    let (d', emitted) := d.sample burstLen thr pos x score
    let (d'', bursts) := Detector.run burstLen thr (pos + 1) rest d'
    (d'', emitted.toList ++ bursts)

/-- The detector the registers hold. -/
def Regs.detector (r : Regs) : Detector := ⟨r.fsm, r.burstBuf⟩

/-- The registers with another detector. -/
def Regs.withDetector (r : Regs) (d : Detector) : Regs := { r with fsm := d.fsm, burstBuf := d.buf }

/-- The atomic read of `THRESHOLD` into `THR_LATCH`, once per call (10 R25, R26). -/
def Regs.latch (r : Regs) : Regs := { r with thrLatch := some r.threshold }

/-- `FSM_BLOCK` on latched registers (R182). Every comparison of the call uses the value just latched, which is
`THRESHOLD`, since nothing writes it between the latch and the end of the call (10 R25; log entry 11). -/
def Regs.fsmBlock (r : Regs) (samples : List C32) (scores : List F32) (readPos : U64) : Regs × List Burst :=
  let r := r.latch
  let (d, bursts) := Detector.run r.burstLen r.threshold readPos (samples.zip scores) r.detector
  (r.withDetector d, bursts)

/-- `FSM_BLOCK` issued directly: it performs the latch itself (R182, 10 R25). -/
def execFsmBlock (samples : List C32) (scores : List F32) (readPos : U64) (s : State) : Answer :=
  directOp .fsmBlock s fun r =>
    if scores.length = samples.length then
      let (r', bursts) := r.fsmBlock samples scores readPos
      .next ((s.withRegs r').withReply (.bursts bursts))
    else .next (s.raiseDirect (sizeError .fsmBlock scores.length samples.length))

end Sys2Proof.Machine
end

