-- ==== Sys2Proof/Machine/Synchronizer.lean ====
section
/-!
DEFINITION. Unit U4, the time synchronizer and cyclic-prefix CFO estimator (spec 43_time_sync_cfo): SYNC_ALIGN,
CFO_ESTIMATE, CFO_CORRECT. All three are pure.
-/

namespace Sys2Proof.Machine

open Sys2Proof

/-- `M[p]` under `MAGSQ`: `abs2(sum_{k<N} burst[p+k] * conj(ZC_TIME[k]))` (R201). -/
def magsqMetric {S R : Type} (ν : Numerics S R) (ref window : List (Cx S)) : R :=
  ν.abs2 (ν.dot ((window.map (widenC ν)).zip (ref.map fun z => ν.conj (widenC ν z))))

/-- `M[p]` for every `p` in `0 .. L - N` (R201); the metric is a function of the window `burst[p .. p + N - 1]`. -/
def syncMetrics {S R : Type} (metric : List (Cx S) → R) (n : Nat) (burst : List (Cx S)) : List R :=
  (List.range (burst.length + 1 - n)).map fun p => metric ((burst.drop p).take n)

/-- The metric of the instance (R201, R208). `NORMALIZED` has `W = N`; with taps of another length, after a directly issued
`XCORR_INIT`, its value is the model's choice (log entry 32). -/
def Regs.syncMetric (P : Params) (r : Regs) (window : List C32) : HReal :=
  match P.syncMetric with
  | .magsq => magsqMetric P.numerics r.zcTime window
  | .normalized => directScore P.numerics P.xcMeanRemove r.taps r.tapsVar r.fftSize window

/-- `P_STAR` and `S0 = P_STAR - SYNC_OFFSET` (R201, R202). -/
def Regs.syncAlign (P : Params) (r : Regs) (burst : List C32) : Nat × Int :=
  let p := argmaxFirst P.numerics.ge (syncMetrics (r.syncMetric P) r.fftSize burst)
  (p, (p : Int) - (r.layout.syncOffset r.pilotSel.toNat : Int))

/-- `CFO_W` (R204): the angle of the dot product of the pilot's cyclic prefix, conjugated, with the same samples `N` later,
divided by `N`; 0 where that product is 0. -/
def cfoEstimate {S R : Type} [OfNat R 0] (ν : Numerics S R) (l : Layout) (pilot : Nat) (frame : List (Cx S)) : Option R :=
  let a := l.symCpStart pilot
  match memRead frame a l.cpShort, memRead frame (a + l.n) l.cpShort with
  | some head, some tail =>
    let d := ν.dot ((head.map fun z => ν.conj (widenC ν z)).zip (tail.map (widenC ν)))
    some (if ν.cisZero d then 0 else ν.divNat (ν.arg d) l.n)
  | _, _ => none

/-- `out[n] = frame[n] * cexp(-w * n)`, rounded to `c32` (R205). -/
def cfoCorrect {S R : Type} (ν : Numerics S R) (frame : List (Cx S)) (w : R) : List (Cx S) :=
  frame.mapIdx fun n z => narrowC ν (ν.cmul (widenC ν z) (ν.derotate w n))

/-- `SYNC_ALIGN` issued directly (R201). -/
def execSyncAlign (burst : List C32) (s : State) : Answer :=
  directOp .syncAlign s fun r =>
    .next (s.finish (checkSize .syncAlign burst r.burstLen
      (.ok (.sync (r.syncAlign Config.params burst).1 (r.syncAlign Config.params burst).2))))

/-- `CFO_ESTIMATE` issued directly (R204). -/
def execCfoEstimate (frame : List C32) (s : State) : Answer :=
  directOp .cfoEstimate s fun r =>
    if frame.length = r.frameLen then
      orFault .bufferRange (cfoEstimate Config.params.numerics r.layout r.pilotSel.toNat frame) fun w =>
        .next (s.withReply (.real w))
    else .next (s.raiseDirect (sizeError .cfoEstimate frame.length r.frameLen))

/-- `CFO_CORRECT` issued directly (R205). -/
def execCfoCorrect (frame : List C32) (w : HReal) (s : State) : Answer :=
  directOp .cfoCorrect s fun r =>
    .next (s.finish (checkSize .cfoCorrect frame r.frameLen (.ok (.c32s (cfoCorrect Config.params.numerics frame w)))))

end Sys2Proof.Machine
end

