-- ==== Sys2Proof/Machine/Ofdm.lean ====
section
/-!
DEFINITION. Units U5 and U6 (spec 44_ofdm_demod_equalizer): OFDM_DEMOD, CHAN_EST, EQUALIZE. All three are pure but for the
free values `CHAN_EST` draws. Rows are numbered 1 to 9 like the symbols; row `j` is element `j - 1`.
-/

namespace Sys2Proof.Machine

open Sys2Proof

/-- `G = SHIFT(DFT(x))` (R220). -/
def centredSpectrum {S R : Type} (ν : Numerics S R) (x : List (Cx R)) : List (Cx R) :=
  swapHalves ((List.range x.length).map (ν.dft x))

/-- The data carriers of one symbol: its `N` useful samples, transformed, gathered at `DC_IDX` (R220). -/
def demodSymbol {S R : Type} (ν : Numerics S R) (l : Layout) (dcIdx : List Nat) (frame : List (Cx S)) (j : Nat) :
    Option (List (Cx S)) :=
  match memRead frame (l.symUsefulStart j) l.n with
  | some x =>
    match gather (centredSpectrum ν (x.map (widenC ν))) dcIdx with
    | some row => some (row.map (narrowC ν))
    | none => none
  | none => none

/-- The rows of the symbols of a list, all of which must exist. -/
def demodSymbols {S R : Type} (ν : Numerics S R) (l : Layout) (dcIdx : List Nat) (frame : List (Cx S)) :
    List Nat → Option (List (List (Cx S)))
  | [] => some []
  | j :: js =>
    match demodSymbol ν l dcIdx frame j, demodSymbols ν l dcIdx frame js with
    | some row, some rows => some (row :: rows)
    | _, _ => none

/-- `SYMS` (R220): the nine symbols in order. -/
def ofdmDemod {S R : Type} (ν : Numerics S R) (l : Layout) (dcIdx : List Nat) (frame : List (Cx S)) :
    Option (List (List (Cx S))) :=
  demodSymbols ν l dcIdx frame [1, 2, 3, 4, 5, 6, 7, 8, 9]

/-- Row `j` of a grid whose rows are numbered from 1. -/
def rowOf {α : Type} (grid : List (List α)) (j : Nat) : List α := grid.getD (j - 1) []

/-- `CHAN` (R221): the known pilot over the received one, carrier by carrier; a received carrier that is exactly 0 leaves a
free value, the `i`-th of the sequence `free`. -/
def chanEst {S R : Type} (ν : Numerics S R) (zcFreq : List (Cx R)) (pilot : Nat) (free : Nat → Cx S)
    (syms : List (List (Cx S))) : List (Cx S) :=
  (zcFreq.zip (rowOf syms pilot)).mapIdx fun i yr =>
    if ν.cisZero (widenC ν yr.2) then free i else narrowC ν (ν.cdiv yr.1 (widenC ν yr.2))

/-- `EQ` (R222): every row but the pilot's multiplied by the channel estimate; the pilot's row is copied. -/
def equalize {S R : Type} (ν : Numerics S R) (pilot : Nat) (syms : List (List (Cx S))) (chan : List (Cx S)) :
    List (List (Cx S)) :=
  syms.mapIdx fun i row =>
    if i + 1 = pilot then row
    else (row.zip chan).map fun vc => narrowC ν (ν.cmul (widenC ν vc.1) (widenC ν vc.2))

/-- How many free values one `CHAN_EST` draws: one place for each carrier. -/
def chanDraws : Nat := 600

/-- `OFDM_DEMOD` issued directly (R220). -/
def execOfdmDemod (frame : List C32) (s : State) : Answer :=
  directOp .ofdmDemod s fun r =>
    if frame.length = r.frameLen then
      orFault .bufferRange (ofdmDemod Config.params.numerics r.layout r.dcIdx frame) fun syms =>
        .next (s.withReply (.grid syms))
    else .next (s.raiseDirect (sizeError .ofdmDemod frame.length r.frameLen))

/-- `CHAN_EST` issued directly (R221). -/
def execChanEst (syms : List (List C32)) (s : State) : Answer :=
  directOp .chanEst s fun r =>
    .next ((s.draw chanDraws).withReply (.c32s
      (chanEst Config.params.numerics r.zcFreq r.pilotSel.toNat (fun i => Config.freeCplx (s.drawn + i)) syms)))

/-- `EQUALIZE` issued directly (R222). -/
def execEqualize (syms : List (List C32)) (chan : List C32) (s : State) : Answer :=
  directOp .equalize s fun r =>
    .next (s.withReply (.grid (equalize Config.params.numerics r.pilotSel.toNat syms chan)))

end Sys2Proof.Machine
end

