-- ==== Sys2Proof/Machine/Demapper.lean ====
section
/-!
DEFINITION. Unit U7 (spec 45_qpsk_demapper): QPSK_DEMAP, its application to the nine rows (R241), BIT_SELECT. A bit is a
`Bool`, `true` being 1.
-/

namespace Sys2Proof.Machine

open Sys2Proof

/-- The quadrant decision of R240 over any component type: the tests in the order of the rule, each strict, everything else
`11`. -/
def quadrantBits {S : Type} (pos neg : S → Bool) (v : Cx S) : Bool × Bool :=
  if pos v.re && pos v.im then (false, false)
  else if pos v.re && neg v.im then (false, true)
  else if neg v.re && pos v.im then (true, false)
  else (true, true)

/-- `QPSK_DEMAP` on the `c32` value of `EQ` (R240). -/
def qpskDemap (v : C32) : Bool × Bool := quadrantBits f32Pos f32Neg v

/-- The 1200 bits of one row, `b0` before `b1`, carriers in increasing index (R241). -/
def demapRow (row : List C32) : List Bool :=
  row.flatMap fun v => [(qpskDemap v).1, (qpskDemap v).2]

/-- `BITS9` (R241). -/
def demapGrid (eq : List (List C32)) : List (List Bool) := eq.map demapRow

/-- The bits of the symbols of `DATA_SYMS`, in that order, before `BIT_XFORM` (R243). -/
def selectedBits (dataSyms : List Nat) (bits9 : List (List Bool)) : List Bool :=
  dataSyms.flatMap fun j => rowOf bits9 j

/-- `CBITS` (R243): 7200 bits. -/
def bitSelect (P : Params) (bits9 : List (List Bool)) : List Bool :=
  (List.range 7200).map (P.bitXform (selectedBits P.dataSyms bits9))

/-- `QPSK_DEMAP` issued directly (R240). -/
def execQpskDemap (v : C32) (s : State) : Answer :=
  directOp .qpskDemap s fun _ => .next (s.withReply (.bitPair (qpskDemap v).1 (qpskDemap v).2))

/-- `BIT_SELECT` issued directly (R243). -/
def execBitSelect (bits9 : List (List Bool)) (s : State) : Answer :=
  directOp .bitSelect s fun _ => .next (s.withReply (.bits (bitSelect Config.params bits9)))

end Sys2Proof.Machine
end

