-- ==== Sys2Proof/Machine/RateMatch.lean ====
section
/-!
DEFINITION. The LTE rate matching and its inverse (spec 46_turbo_decoder sections 1 and 2): SOFT_MAP, RATE_DEMATCH, and
`rateMatch`, the transmitter's relation that U8 inverts (R266; no operation of the hardware). The tables are the ones the
spec writes from general knowledge (93 G3 to G7; log entry 20).
-/

namespace Sys2Proof.Machine

open Sys2Proof

/-! ### SOFT_MAP (R260) -/

/-- The LUT `{0 -> -63, 1 -> +63}`; any other value has none (R260). -/
def softOfBit (b : Byte) : Option S8 :=
  if b = 0 then some (-63) else if b = 1 then some 63 else none

/-- `SOFT`, or `E_BIT_VALUE` for the first offending element; `index` is the number of the list's first element (R260). -/
def softMapFrom (index : Nat) : List Byte → Except Record (List S8)
  | [] => .ok []
  | b :: bs =>
    match softOfBit b with
    | none => .error ⟨.eBitValue, .softMap, .bitValue index b⟩
    | some v =>
      match softMapFrom (index + 1) bs with
      | .ok vs => .ok (v :: vs)
      | .error e => .error e

/-- `SOFT_MAP`: the size first, then the values (R260, 60 R353). -/
def softMap (bits : List Byte) : Except Record (List S8) :=
  checkSize .softMap bits 7200 (softMapFrom 0 bits)

/-! ### The sub-block interleaver (R261 to R263) -/

/-- The inter-column permutation pattern `P` (R263). -/
def columnPattern : List Nat :=
  [0, 16, 8, 24, 4, 20, 12, 28, 2, 18, 10, 26, 6, 22, 14, 30, 1, 17, 9, 25, 5, 21, 13, 29, 3, 19, 11, 27, 7, 23, 15, 31]

/-- `perm01(k) = P[floor(k / 45)] + 32 * (k mod 45)` (R263). -/
def perm01 (k : Nat) : Nat := columnPattern.getD (k / 45) 0 + 32 * (k % 45)

/-- `perm2(k) = (perm01(k) + 1) mod 1440` (R263). -/
def perm2 (k : Nat) : Nat := (perm01 k + 1) % 1440

/-- Which stream a position of the circular buffer holds, and the index read from that stream PADDED with its 28 `NULL`
elements: stream 0 first, then streams 1 and 2 interlaced (R262, R264). -/
def paddedSource (p : Nat) : Nat × Nat :=
  if p < 1440 then (0, perm01 p)
  else if (p - 1440) % 2 = 0 then (1, perm01 ((p - 1440) / 2))
  else (2, perm2 ((p - 1440) / 2))

/-- `w[p]` is `NULL`: one of the 28 elements padded before a stream (R262, R263). -/
def isNull (p : Nat) : Bool := (paddedSource p).2 < 28

/-- `SRC(p) = (s, i)` for a position that is not `NULL` (R264). -/
def source (p : Nat) : Nat × Nat := ((paddedSource p).1, (paddedSource p).2 - 28)

/-- The positions of one walk of the circular buffer from `K0 = 90`, wrapping at 4320, `NULL`s skipped (R264). -/
def walkOnce : List Nat := ((List.range 4320).map fun j => (90 + j) % 4320).filter fun p => !isNull p

/-- `SEL[0 .. 7199]`: the walk, continued over the buffer a second time until 7200 positions are found (R264). -/
def selection : List Nat := (walkOnce ++ walkOnce).take 7200

/-! ### RATE_DEMATCH (R265) -/

/-- Stream `s` of three. -/
def Streams.get {α : Type} (d : Streams α) (s : Nat) : List α :=
  match s with
  | 0 => d.d0
  | 1 => d.d1
  | _ => d.d2

/-- The write `DS[s][i] <- v`. -/
def Streams.put {α : Type} (d : Streams α) (s i : Nat) (v : α) : Streams α :=
  match s with
  | 0 => { d with d0 := d.d0.set i v }
  | 1 => { d with d1 := d.d1.set i v }
  | _ => { d with d2 := d.d2.set i v }

/-- `ACC`: the soft values of each buffer position summed, repeated bits added (R265). -/
def dematchAcc (soft : List S8) : List Int :=
  scatterAdd (List.replicate 4320 0) (selection.zip (soft.map BitVec.toInt))

/-- `DS` from `ACC`: each position that is not `NULL` written to its stream (R265). -/
def streamsOfAcc (acc : List Int) : Streams Int :=
  ((List.range 4320).filter fun p => !isNull p).foldl
    (fun d p => Streams.put d (source p).1 (source p).2 (acc.getD p 0))
    ⟨List.replicate 1412 0, List.replicate 1412 0, List.replicate 1412 0⟩

/-- `RATE_DEMATCH` (R265). -/
def rateDematch (soft : List S8) : Except Record (Streams Int) :=
  checkSize .rateDematch soft 7200 (.ok (streamsOfAcc (dematchAcc soft)))

/-! ### The transmitter's relation (R266) -/

/-- `RATE_MATCH`: `e[k] = d_s[i]` with `(s, i) = SRC(SEL[k])` (R266). -/
def rateMatch (d : Streams Bool) : List Bool :=
  selection.map fun p => (Streams.get d (source p).1).getD (source p).2 false

/-! ### The operations -/

/-- `SOFT_MAP` issued directly (R260). -/
def execSoftMap (bits : List Byte) (s : State) : Answer :=
  directOp .softMap s fun _ => .next (s.finish ((softMap bits).map Reply.soft))

/-- `RATE_DEMATCH` issued directly (R265). -/
def execRateDematch (soft : List S8) (s : State) : Answer :=
  directOp .rateDematch s fun _ => .next (s.finish ((rateDematch soft).map Reply.streams))

end Sys2Proof.Machine
end

