-- ==== Sys2Proof/Machine/TurboCode.lean ====
section
/-!
DEFINITION. The LTE turbo code for `K = 1408` that the decoder inverts (spec 46_turbo_decoder section 3). These are
mathematical functions, not operations of the hardware (R268); the tables are the ones the spec writes from general
knowledge (93 G8 to G10; log entry 20).
-/

namespace Sys2Proof.Machine

open Sys2Proof

/-- The register of a constituent encoder, `s1` the newest (R269). -/
structure RscState where
  s1 : Bool
  s2 : Bool
  s3 : Bool
deriving DecidableEq, Repr, Inhabited

/-- One step on input bit `u`: the next register and the parity output (R269). -/
def rscStep (q : RscState) (u : Bool) : RscState × Bool :=
  let a := (u ^^ q.s2) ^^ q.s3
  (⟨a, q.s1, q.s2⟩, (a ^^ q.s1) ^^ q.s3)

/-- The parity outputs of a run over the information bits, and the register it ends in (R269). -/
def rscRun : RscState → List Bool → List Bool × RscState
  | q, [] => ([], q)
  | q, u :: us =>
    let (q', z) := rscStep q u
    let (zs, qn) := rscRun q' us
    (z :: zs, qn)

/-- The input of a termination step, taken from the feedback, so that the new `s1` is 0 (R269). -/
def tailBit (q : RscState) : Bool := q.s2 ^^ q.s3

/-- The pairs `(x, z)` of `n` termination steps (R269). -/
def rscTail : Nat → RscState → List (Bool × Bool)
  | 0, _ => []
  | n + 1, q =>
    let (q', z) := rscStep q (tailBit q)
    (tailBit q, z) :: rscTail n q'

/-- `T(S, u) = (next state, z)` with `S = 4*s1 + 2*s2 + s3`: the table of R269, one row a state, `u = 0` then `u = 1`. -/
def trellisTable : List ((Nat × Bool) × (Nat × Bool)) :=
  [((0, false), (4, true)), ((4, false), (0, true)), ((5, true), (1, false)), ((1, true), (5, false)),
   ((2, true), (6, false)), ((6, true), (2, false)), ((7, false), (3, true)), ((3, false), (7, true))]

/-- `T(S, u)` (R269). -/
def trellis (state : Nat) (u : Bool) : Nat × Bool :=
  let row := trellisTable.getD state ((0, false), (0, false))
  if u then row.2 else row.1

/-- The number of a register, `4*s1 + 2*s2 + s3` (R269). -/
def RscState.number (q : RscState) : Nat := 4 * q.s1.toNat + 2 * q.s2.toNat + q.s3.toNat

/-- `PI(i) = (43 * i + 88 * i * i) mod 1408` (R270). -/
def turboPerm (i : Nat) : Nat := (43 * i + 88 * i * i) % 1408

/-- `c'[i] = c[PI(i)]` (R270). -/
def interleave {α : Type} (fill : α) (c : List α) : List α := (List.range 1408).map fun i => c.getD (turboPerm i) fill

/-- The parity bits and the termination pairs of a constituent encoder fed `c` (R269, R271). -/
def constituent (c : List Bool) : List Bool × List (Bool × Bool) :=
  let (z, q) := rscRun ⟨false, false, false⟩ c
  (z, rscTail 3 q)

/-- `TURBO_ENCODE` (R271, R272): the systematic and the two parity streams, each followed by its four tail bits. -/
def turboEncode (c : List Bool) : Streams Bool :=
  let (z, t) := constituent c
  let (z', t') := constituent (interleave false c)
  let x (k : Nat) := (t.getD k (false, false)).1
  let p (k : Nat) := (t.getD k (false, false)).2
  let x' (k : Nat) := (t'.getD k (false, false)).1
  let p' (k : Nat) := (t'.getD k (false, false)).2
  ⟨c ++ [x 0, p 1, x' 0, p' 1], z ++ [p 0, x 2, p' 0, x' 2], z' ++ [x 1, p 2, x' 1, p' 2]⟩

/-- `CODEWORD(c) = RATE_MATCH(TURBO_ENCODE(c))` (R272). -/
def codeword (c : List Bool) : List Bool := rateMatch (turboEncode c)

/-- The soft value of a bit, -63 or +63 (R260). -/
def softOfBool (b : Bool) : S8 := if b then 63 else -63

/-- `RATE_DEMATCH(SOFT_MAP(e))` for a vector of 7200 bits. -/
def dematchBits (e : List Bool) : Streams Int := streamsOfAcc (dematchAcc (e.map softOfBool))

end Sys2Proof.Machine
end

