-- ==== Sys2Proof/Machine/ReferenceDecoder.lean ====
section
/-!
DEFINITION. The reference instance of `TURBO_DEC` (spec 46_turbo_decoder R276, R277, R281; 93 G11): a max-log-MAP decoder
with exact integer metrics. The machine takes `TURBO_DEC` as a parameter (R274); this is the value the spec gives for it.
-/

namespace Sys2Proof.Machine

open Sys2Proof

/-- A metric: an integer, or `-inf`, which is below every integer and absorbs addition (00 R10 (d)). -/
abbrev Metric := Option Int

/-- Addition of an integer to a metric. -/
def Metric.plus (a : Metric) (g : Int) : Metric := a.map (· + g)

/-- Addition of two metrics. -/
def Metric.join (a b : Metric) : Metric :=
  match a, b with
  | some x, some y => some (x + y)
  | _, _ => none

/-- The greater of two metrics. -/
def Metric.best (a b : Metric) : Metric :=
  match a, b with
  | some x, some y => some (max x y)
  | some x, none => some x
  | none, b => b

/-- The greatest of a list of metrics. -/
def Metric.bestOf (l : List Metric) : Metric := l.foldl Metric.best none

/-- One step of a constituent trellis: the systematic and the parity soft value. -/
structure TrellisInput where
  sv : Int
  pv : Int
deriving DecidableEq, Repr

/-- The branch metric `g(k, S, u) = u * sv[k] + z * pv[k]` (R277). -/
def branchMetric (x : TrellisInput) (state : Nat) (u : Bool) : Int :=
  (if u then x.sv else 0) + (if (trellis state u).2 then x.pv else 0)

/-- The metrics of the eight states where only state 0 is possible (R277). -/
def onlyZero : List Metric := some 0 :: List.replicate 7 none

/-- `A[k]`'s entry for state `S`, `-inf` for a state that does not exist. -/
def metricAt (row : List Metric) (state : Nat) : Metric := row.getD state none

/-- One forward step, `A[k+1]` from `A[k]` (R277). -/
def forwardStep (row : List Metric) (x : TrellisInput) : List Metric :=
  (List.range 8).map fun next =>
    Metric.bestOf ((List.range 8).flatMap fun st =>
      [false, true].filterMap fun u =>
        if (trellis st u).1 = next then some ((metricAt row st).plus (branchMetric x st u)) else none)

/-- One backward step, `B[k]` from `B[k+1]` (R277). -/
def backwardStep (row : List Metric) (x : TrellisInput) : List Metric :=
  (List.range 8).map fun st =>
    Metric.bestOf ([false, true].map fun u => (metricAt row (trellis st u).1).plus (branchMetric x st u))

/-- `M[k][u]`: the best path through a branch with input `u` (R277). -/
def bitMetric (a b : List Metric) (x : TrellisInput) (u : Bool) : Metric :=
  Metric.bestOf ((List.range 8).map fun st =>
    ((metricAt a st).plus (branchMetric x st u)).join (metricAt b (trellis st u).1))

/-- `L[k] = M[k][1] - M[k][0]`; both are finite for every information bit (R277). -/
def bitLlr (a b : List Metric) (x : TrellisInput) : Int :=
  match bitMetric a b x true, bitMetric a b x false with
  | some m1, some m0 => m1 - m0
  | _, _ => 0

/-- `SISO(Lsys, La, Lpar, xtail, ztail)` (R277). -/
def siso (lsys la lpar xtail ztail : List Int) : List Int :=
  let info := (List.zipWith (· + ·) lsys la).zipWith TrellisInput.mk lpar
  let steps := info ++ xtail.zipWith TrellisInput.mk ztail
  let fwd := steps.scanl forwardStep onlyZero
  let bwd := (steps.reverse.scanl backwardStep onlyZero).reverse
  ((info.zip fwd).zip bwd.tail).map fun xab => bitLlr xab.1.2 xab.2 xab.1.1

/-- `v[PI(i)] <- w[i]` for every `i` (R281). -/
def deinterleave (w : List Int) : List Int :=
  scatter (List.replicate 1408 0) (w.mapIdx fun i v => (turboPerm i, v))

/-- What one constituent decoder is given beside the a-priori values (R276). -/
structure SisoInputs where
  sys : List Int
  par : List Int
  xtail : List Int
  ztail : List Int
deriving DecidableEq, Repr

/-- The inputs of the first constituent decoder (R276). -/
def firstInputs (ds : Streams Int) : SisoInputs :=
  let t (l : List Int) (k : Nat) := l.getD (1408 + k) 0
  ⟨ds.d0.take 1408, ds.d1.take 1408, [t ds.d0 0, t ds.d2 0, t ds.d1 1], [t ds.d1 0, t ds.d0 1, t ds.d2 1]⟩

/-- The inputs of the second, its systematic values interleaved (R276). -/
def secondInputs (ds : Streams Int) : SisoInputs :=
  let t (l : List Int) (k : Nat) := l.getD (1408 + k) 0
  ⟨interleave 0 (ds.d0.take 1408), ds.d2.take 1408, [t ds.d0 2, t ds.d2 2, t ds.d1 3], [t ds.d1 2, t ds.d0 3, t ds.d2 3]⟩

/-- The extrinsic part of a decoder's output, `L - Lsys - La` (R281). -/
def extrinsic (l sys la : List Int) : List Int := List.zipWith (· - ·) (List.zipWith (· - ·) l sys) la

/-- One iteration from the a-priori values `Le2`: the new `Le2`, and the output `L2` of the second decoder (R281). -/
def turboIteration (a b : SisoInputs) (le2 : List Int) : List Int × List Int :=
  let l1 := siso a.sys le2 a.par a.xtail a.ztail
  let lai := interleave 0 (extrinsic l1 a.sys le2)
  let l2 := siso b.sys lai b.par b.xtail b.ztail
  (deinterleave (extrinsic l2 b.sys lai), l2)

/-- The last `L2` of `iters` iterations (R281). -/
def turboIterate (a b : SisoInputs) : Nat → List Int → List Int → List Int
  | 0, _, l2 => l2
  | n + 1, le2, _ => turboIterate a b n (turboIteration a b le2).1 (turboIteration a b le2).2

/-- `TURBO_DEC_REF(ds, iters)` (R281): the status is always 0, a tie decides 0. -/
def turboDecRef (ds : Streams Int) (iters : Nat) : Int × (Nat → Bool) :=
  let zeros := List.replicate 1408 0
  let lfin := deinterleave (turboIterate (firstInputs ds) (secondInputs ds) iters zeros zeros)
  (0, fun k => 0 < lfin.getD k 0)

end Sys2Proof.Machine
end

