-- ==== Sys2Proof/Machine/Crc.lean ====
section
/-!
DEFINITION. Unit U9, the CRC-24 validator (spec 47_crc24_validator): CRC24_CHECK.
-/

namespace Sys2Proof.Machine

open Sys2Proof

/-- The generator polynomial without its leading term (R300; 93 G1). -/
def crcPoly : BitVec 24 := 0x864CFB

/-- One bit into `CRC_REG` (R300). -/
def crcBit (r : BitVec 24) (bit : Bool) : BitVec 24 :=
  let shifted := r <<< 1
  if (r.msb ^^ bit) then shifted ^^^ crcPoly else shifted

/-- The bits of a byte, most significant first (R300, 20 R72). -/
def byteBits (b : Byte) : List Bool := (List.range 8).map fun i => b.getLsbD (7 - i)

/-- The bits of a byte vector, in the order the CRC consumes them (20 R72). -/
def bytesBits (b : List Byte) : List Bool := b.flatMap byteBits

/-- `CRC24(b)`: the register starts at 0 and takes every bit (R300, D29). -/
def crc24 (b : List Byte) : BitVec 24 := (bytesBits b).foldl crcBit 0

/-- The three bytes of a 24-bit value, most significant first (20 R71, R302). -/
def crcTrailer (v : BitVec 24) : List Byte :=
  [v.extractLsb' 16 8, v.extractLsb' 8 8, v.extractLsb' 0 8]

/-- `CRC24_CHECK` issued directly (R301): the residual over all 176 bytes, accepted if it is 0. -/
def execCrc24Check (block : List Byte) (s : State) : Answer :=
  directOp .crc24Check s fun _ =>
    .next (s.finish (checkSize .crc24Check block 176 (.ok (.crc (crc24 block == 0) (crc24 block)))))

end Sys2Proof.Machine
end

