-- ==== Sys2Proof/Machine/TurboDecoder.lean ====
section
/-!
DEFINITION. Unit U8, the decoder proper (spec 46_turbo_decoder sections 4 and 5): TURBO_DECODE and DECODE.
-/

namespace Sys2Proof.Machine

open Sys2Proof

/-- `N_ITER`, the fixed number of iterations (00 R7). -/
def turboIterations : Nat := 4

/-- The information block whose dematched codeword `ds` is, if it is one: the signs of the systematic stream are its bits
(R267), and encoding them again must give `ds`. -/
def codewordSource (ds : Streams Int) : Option (List Bool) :=
  let c := (ds.d0.take 1408).map fun v => decide (0 < v)
  if c.length = 1408 ∧ dematchBits (codeword c) = ds then some c else none

/-- `TURBO_DEC(ds, 4)` (R273, R274). Requirement (T1) of R274 is imposed on the instance's decoder: where `ds` is the
dematched codeword of a block `c` the answer is `(0, c)`. On every other input the instance decides. A decoder that
satisfies (T1) is not changed by this, so every decoder R274 admits is covered (log entry 6). -/
def turboDec (P : Params) (ds : Streams Int) : Int × List Bool :=
  match codewordSource ds with
  | some c => (0, c)
  | none =>
    let (status, bit) := P.turboDecRaw ds turboIterations
    (status, (List.range 1408).map bit)

/-- Eight bits as a byte, the first most significant: `sum_{i<8} c[i] * 2^(7 - i)` (R273, 20 R72). -/
def packByte (bits : List Bool) : Byte :=
  BitVec.ofNat 8 (((List.range 8).map fun i => (bits.getD i false).toNat * 2 ^ (7 - i)).sum)

/-- `DEC_BYTES[m]` from bits `8*m .. 8*m + 7` (R273). -/
def packBytes (c : List Bool) : List Byte := (List.range 176).map fun m => packByte ((c.drop (8 * m)).take 8)

/-- `TURBO_DECODE` on three streams of 1412 values: `DEC_STATUS` and `DEC_BYTES` (R273). -/
def turboDecode (P : Params) (ds : Streams Int) : Int × List Byte :=
  ((turboDec P ds).1, packBytes (turboDec P ds).2)

/-- The operand of `TURBO_DECODE` as the three streams, where it is 3 streams of 1412 values (R273, 60 R345). -/
def streamsOf (ds : List (List Int)) : Option (Streams Int) :=
  match ds with
  | [d0, d1, d2] => if d0.length = 1412 ∧ d1.length = 1412 ∧ d2.length = 1412 then some ⟨d0, d1, d2⟩ else none
  | _ => none

/-- The value `got` of an `E_SIZE` of `TURBO_DECODE`. The rule writes `got = ..` (R273): where there are three streams of
one length it is that length, and otherwise a free value (log entry 8). -/
def streamsGot (ds : List (List Int)) (free : Nat) : Nat :=
  match ds with
  | [d0, d1, d2] => if d0.length = d1.length ∧ d1.length = d2.length then d0.length else free
  | _ => free

/-- What `DECODE` computes on the way (R282), for the transients of `PROCESS_BURST`. -/
structure DecodeRun where
  soft : List S8
  acc : List Int
  ds : Streams Int
  status : Int
  bytes : List Byte
  /-- `CRC_REG`; no value where the CRC is not computed, after a nonzero status. -/
  residual : Option (BitVec 24)
  /-- `Ok(bytes)` or `Err(code, detail)`. -/
  result : Except Record (List Byte)

/-- The stages of `DECODE` after the soft mapping (R282): a nonzero status ends it before the CRC, a nonzero residual
rejects the block. Both outcomes are `DECODE`'s own (log entry 14). -/
def decodeSoft (P : Params) (soft : List S8) : DecodeRun :=
  let acc := dematchAcc soft
  let ds := streamsOfAcc acc
  let out := turboDecode P ds
  { soft := soft, acc := acc, ds := ds, status := out.1, bytes := out.2
    residual := if out.1 = 0 then some (crc24 out.2) else none
    result :=
      if out.1 ≠ 0 then .error ⟨.sDecoderFail, .decode, .decoderStatus out.1⟩
      else if crc24 out.2 ≠ 0 then .error ⟨.sCrcFail, .decode, .crcResidual (crc24 out.2)⟩
      else .ok out.2 }

/-- `DECODE` up to its result (R282): the size, the soft mapping, then the stages after it; what it raises is an error. -/
def decodeRun (P : Params) (bits : List Byte) : Except Record DecodeRun :=
  checkSize .decode bits 7200 ((softMap bits).map (decodeSoft P))

/-- `DECODE` (R282): `Ok(bytes)`, `Err(code, detail)`, or the error it raises. -/
def decodeBlock (P : Params) (bits : List Byte) : Except Record (List Byte) :=
  match decodeRun P bits with
  | .ok run => run.result
  | .error e => .error e

/-- `TURBO_DECODE` issued directly (R273). -/
def execTurboDecode (d0 d1 : Option (List Int)) (d2 : List (List Int)) (s : State) : Answer :=
  let ds := d0.toList ++ d1.toList ++ d2
  directOp .turboDecode s fun _ =>
    match streamsOf ds with
    | some d => .next (s.withReply (.decoded (turboDecode Config.params d).1 (turboDecode Config.params d).2))
    | none => .next ((s.draw 1).raiseDirect (sizeError .turboDecode (streamsGot ds (Config.freeNat s.drawn)) 1412))

/-- `DECODE` issued directly (R282). -/
def execDecode (bits : List Byte) (s : State) : Answer :=
  directOp .decode s fun _ => .next (s.finish ((decodeBlock Config.params bits).map Reply.block))

end Sys2Proof.Machine
end

