-- ==== Sys2Proof/Machine/System.lean ====
section
/-!
DEFINITION. The system operations (spec 48_system_operations): CONFIGURE, RESET, SET_THRESHOLD, PROCESS_BLOCK,
PROCESS_BURST.
-/

namespace Sys2Proof.Machine

open Sys2Proof

/-! ### CONFIGURE (R321) -/

/-- Step 1 of `CONFIGURE`: derive and check, the first failure deciding the code; answers `N` and the root (R321, 60 R353). -/
def configureCheck (P : Params) (sampleRate : F64) (pilotSel : Byte) : Except Record (Nat × Nat) :=
  match fftSizeOf P sampleRate with
  | .error e => .error e
  | .ok n =>
    match zcRootOfSymbol pilotSel.toNat with
    | none => .error ⟨.eCfgSymbolIndex, .configure, .symbolIndex pilotSel⟩
    | some root => if burstLenOf P n < 2 ^ 32 then .ok (n, root) else .error (fftSizeError .configure n)

/-- The registers right after a successful `CONFIGURE` but for `TAPS` and `TAPS_VAR` (10 R39). -/
def freshRegs (P : Params) (sampleRate : F64) (threshold : F32) (pilotSel : Byte) (n root : Nat) : Regs where
  sampleRate := sampleRate
  fftSize := n
  cpLong := cpLongOf n
  cpShort := cpShortOf n
  frameLen := frameLenOf n
  burstLen := burstLenOf P n
  pilotSel := pilotSel
  zcRoot := root
  threshold := threshold
  thrLatch := none
  fsm := .waiting
  burstBuf := []
  tapsVar := 0
  t0 := none
  xcNext := 0
  winEnergy := none
  winSum := none
  zcTime := zcTime P.numerics n (zcFrequency P.numerics P.zcRemoved root)
  zcFreq := zcFrequency P.numerics P.zcRemoved root
  dcIdx := carrierIndices n
  taps := []
  hist := []
  trans := {}

/-- Step 2 of `CONFIGURE`: the whole state of 10 R39, `XCORR_INIT(ZC_TIME)` writing the taps (R321). -/
def configuredRegs (P : Params) (sampleRate : F64) (threshold : F32) (pilotSel : Byte) (n root : Nat) : Regs :=
  let r := freshRegs P sampleRate threshold pilotSel n root
  r.xcorrInit P r.zcTime

/-- `CONFIGURE` with the instance's parameters explicit (R321). -/
def configure (P : Params) (sampleRate : F64) (threshold : F32) (pilotSel : Byte) (s : State) : State :=
  match configureCheck P sampleRate pilotSel with
  | .ok (n, root) =>
    ((s.withRegs (configuredRegs P sampleRate threshold pilotSel n root)).withStatus .ok).withReply .done
  | .error e => s.raiseConfig e

/-- `CONFIGURE` (R321); it may be issued in every `INST_STATE`. -/
def execConfigure (sampleRate : F64) (threshold : F32) (pilotSel : Byte) (s : State) : Answer :=
  .next (configure Config.params sampleRate threshold pilotSel s)

/-! ### RESET (R322) -/

/-- What `RESET` does to the registers of a `READY` instance: U3 alone returns to its initial state (10 R41, 70 R391); the
transients hold no value afterwards (10 R42). -/
def Regs.resetDetector (r : Regs) : Regs := { r.withDetector .idle with trans := {} }

/-- `RESET` (R322): no exception in any state, no message, `LAST_STATUS` unchanged. -/
def execReset (s : State) : Answer :=
  match s.inst with
  | .ready r => .next ((s.withRegs r.resetDetector).withReply .done)
  | .unconfigured | .failed _ => .next (s.withReply .done)

/-! ### SET_THRESHOLD (R323) -/

/-- `THRESHOLD <- t`. -/
def Regs.withThreshold (r : Regs) (t : F32) : Regs := { r with threshold := t }

/-- `SET_THRESHOLD` (R323): the threshold writer's one operation. `E_NOT_READY` goes to its issuer only (60 R347). -/
def execSetThreshold (t : F32) (s : State) : Answer :=
  directOp .setThreshold s fun r => .next ((s.withRegs (r.withThreshold t)).withReply .done)

/-! ### PROCESS_BURST (R326) -/

/-- What the stages of one burst leave: the transients as they stand at the end, the free values drawn, and the outcome,
which is either the payload or the record of the per-burst outcome. -/
structure BurstRun where
  trans : Transients
  draws : Nat
  outcome : Except Record (List Byte)

/-- `E_SYNC_RANGE` (43 R203, 60 R352). -/
def syncRangeError (s0 : Int) : Record := ⟨.eSyncRange, .syncAlign, .syncRange s0⟩

/-- The range check of 43 R203: the frame lies inside the burst. -/
def Regs.frameFits (r : Regs) (s0 : Int) : Bool := decide (0 ≤ s0) && decide (s0 + r.frameLen ≤ r.burstLen)

/-- A bit as the `u8` that `DECODE` takes. -/
def byteOfBit (b : Bool) : Byte := if b then 1 else 0

/-- The stages after the realignment (R326), from `CFO_ESTIMATE` to `DECODE`. None: an index outside its buffer. -/
def Regs.frameStages (P : Params) (r : Regs) (free : Nat → C32) (t : Transients) (frame : List C32) : Option BurstRun :=
  match cfoEstimate P.numerics r.layout r.pilotSel.toNat frame with
  | none => none
  | some w =>
    let frame' := cfoCorrect P.numerics frame w
    match ofdmDemod P.numerics r.layout r.dcIdx frame' with
    | none => none
    | some syms =>
      let chan := chanEst P.numerics r.zcFreq r.pilotSel.toNat free syms
      let eq := equalize P.numerics r.pilotSel.toNat syms chan
      let bits9 := demapGrid eq
      let cbits := bitSelect P bits9
      let t := { t with
        cfoW := some w, frame := some frame', syms := some syms, chan := some chan, eq := some eq, bits9 := some bits9,
        cbits := some cbits }
      match decodeRun P (cbits.map byteOfBit) with
      | .error e => some ⟨t, chanDraws, .error e⟩
      | .ok run =>
        some ⟨{ t with
            soft := some run.soft, acc := some run.acc, ds := some run.ds, decStatus := some run.status,
            decBytes := some run.bytes, crcReg := run.residual }, chanDraws, run.result⟩

/-- The stages of `PROCESS_BURST` on a burst of the right length (R326). -/
def Regs.burstStages (P : Params) (r : Regs) (free : Nat → C32) (burst : List C32) : Option BurstRun :=
  let (pStar, s0) := r.syncAlign P burst
  let t : Transients := { pStar := some pStar, s0 := some s0 }
  if r.frameFits s0 then
    match memRead burst s0.toNat r.frameLen with
    | none => none
    | some frame => r.frameStages P free { t with frame := some frame } frame
  else some ⟨t, 0, .error (syncRangeError s0)⟩

/-- The registers after `PROCESS_BURST`: every transient holds no value (R326). -/
def Regs.clearTransients (r : Regs) : Regs := { r with trans := {} }

/-- The end of `PROCESS_BURST` (R326, 20 R82): the payload if there is one, then exactly one status message with the
burst's start, the code in `LAST_STATUS`, and no transient left. -/
def State.reportBurst (s : State) (r : Regs) (start : U64) (run : BurstRun) : State :=
  let s := (s.withRegs r.clearTransients).draw run.draws
  match run.outcome with
  | .ok bytes =>
    (((s.send (.payload bytes start)).send (.status .ok start)).withStatus .ok).withReply .done
  | .error e =>
    ((s.send (.status e.code start)).withStatus e.code).withReply (.error e)

/-- `PROCESS_BURST` with the instance's parameters explicit (R326). -/
def processBurst (P : Params) (burst : List C32) (start : U64) (s : State) : Answer :=
  agentOp .processBurst s fun r =>
    if burst.length = r.burstLen then
      orFault .bufferRange (r.burstStages P (fun i => Config.freeCplx (s.drawn + i)) burst) fun run =>
        .next (s.reportBurst r start run)
    else .next (s.raiseAgent (sizeError .processBurst burst.length r.burstLen))

/-- `PROCESS_BURST` (R326). -/
def execProcessBurst (burst : List C32) (start : U64) (s : State) : Answer :=
  processBurst Config.params burst start s

/-! ### PROCESS_BLOCK (R324, R325) -/

/-- What `PROCESS_BLOCK` feeds to `FSM_BLOCK`: samples, their scores, and the position of the first. -/
structure Feed where
  samples : List C32
  scores : List F32
  pos : U64
deriving DecidableEq, Repr

/-- The pairing of R325 in `INTERNAL` mode, on the registers `r'` that `XCORR_PUSH` left and the scores it returned, of
windows `a0 ..`: score `a` goes with sample `a - D_PRE`, scores of windows `a < D_PRE` are discarded. None: `T0` is read
and holds no value. -/
def Regs.pairing (P : Params) (r' : Regs) (a0 : Nat) (scores : List F32) : Option Feed :=
  let lo := max a0 P.dPre
  let hi := a0 + scores.length
  if hi ≤ lo then some ⟨[], [], 0⟩
  else
    match r'.t0 with
    | none => none
    | some t0 =>
      some ⟨(r'.hist.drop (lo - P.dPre)).take (hi - lo), scores.drop (lo - a0), t0 + BitVec.ofNat 64 (lo - P.dPre)⟩

/-- The registers and the feed of one call, after the latch (R324): U2 runs in `INTERNAL` mode only. -/
def Regs.feed (P : Params) (r : Regs) (samples : List C32) (readPos : U64) (scores : List F32) : Option (Regs × Feed) :=
  match P.scoreSrc with
  | .external => some (r, ⟨samples, scores, readPos⟩)
  | .internal =>
    let (r', sc) := r.xcorrPush P samples readPos
    match r'.pairing P r.xcNext sc with
    | some f => some (r', f)
    | none => none

/-- The loop of R324 over the bursts of a block, in completion order: each is sent on `OUT_BURST` and then processed; its
outcome never ends the loop. -/
def deliverBursts (P : Params) : List Burst → State → Answer
  | [], s => .next s
  | b :: bs, s =>
    match processBurst P b.samples b.start (s.send (.burst b)) with
    | .next s' => deliverBursts P bs s'
    | .fault f => .fault f
    | .refused x => .refused x

/-- `N_INSUFFICIENT_DATA` (60 R346, 41 R166): written to `LAST_STATUS`, no message. -/
def State.noticeInsufficient (s : State) (absorbed : Nat) : State :=
  (s.withStatus .nInsufficientData).withReply (.error ⟨.nInsufficientData, .processBlock, .absorbed absorbed⟩)

/-- The end of `PROCESS_BLOCK` (R324), `r` being the registers after `FSM_BLOCK`. -/
def State.endBlock (P : Params) (s : State) (r : Regs) (bursts : List Burst) : State :=
  if bursts = [] ∧ P.scoreSrc = .internal ∧ r.xcCount ≤ r.taps.length then s.noticeInsufficient r.xcCount
  else s.withReply .done

/-- `PROCESS_BLOCK` on a call that passed its checks (R324): latch, pairing, `FSM_BLOCK`, one `PROCESS_BURST` per burst. -/
def runBlock (P : Params) (r : Regs) (samples : List C32) (readPos : U64) (scores : List F32) (s : State) : Answer :=
  orFault .absentRegister (r.latch.feed P samples readPos scores) fun rf =>
    let (r', bursts) := rf.1.fsmBlock rf.2.samples rf.2.scores rf.2.pos
    match deliverBursts P bursts (s.withRegs r') with
    | .next s' => .next (s'.endBlock P r' bursts)
    | .fault f => .fault f
    | .refused x => .refused x

/-- `PROCESS_BLOCK` with the instance's parameters explicit (R324): both checks come before the latch. -/
def processBlock (P : Params) (samples : List C32) (readPos : U64) (scores : List F32) (s : State) : Answer :=
  agentOp .processBlock s fun r =>
    if P.scoreSrc = .external ∧ scores.length ≠ samples.length then
      .next (s.raiseAgent (sizeError .processBlock scores.length samples.length))
    else runBlock P r samples readPos scores s

/-- `PROCESS_BLOCK` (R324). Scores given to an instance that computes its own are not used (20 R65), and a call without
scores has none, which in `EXTERNAL` mode is a vector of the wrong length unless the block is empty (log entry 15). -/
def execProcessBlock (samples : List C32) (readPos : U64) (scores : Option (List F32)) (s : State) : Answer :=
  processBlock Config.params samples readPos (scores.getD []) s

end Sys2Proof.Machine
end

