-- ==== Sys2Proof/Machine/Dispatch.lean ====
section
/-!
DEFINITION. One arm per operation: the meaning of each constructor of `Instr`, by its full name.
-/

namespace Sys2Proof.Machine

def exec (i : Instr) (s : State) : Host.Outcome State Fault Refusal :=
  match i with
  | .reset => Sys2Proof.Machine.execReset s
  | .configure sampleRate threshold pilotSel => Sys2Proof.Machine.execConfigure sampleRate threshold pilotSel s
  | .setThreshold t => Sys2Proof.Machine.execSetThreshold t s
  | .processBlock samples readPos scores => Sys2Proof.Machine.execProcessBlock samples readPos scores s
  | .processBurst burst start => Sys2Proof.Machine.execProcessBurst burst start s
  | .generateZc fftSize root => Sys2Proof.Machine.execGenerateZc fftSize root s
  | .dataCarrierIndices fftSize => Sys2Proof.Machine.execDataCarrierIndices fftSize s
  | .zcFreq root => Sys2Proof.Machine.execZcFreq root s
  | .xcorrInit ref => Sys2Proof.Machine.execXcorrInit ref s
  | .xcorrPush samples readPos => Sys2Proof.Machine.execXcorrPush samples readPos s
  | .fsmBlock samples scores readPos => Sys2Proof.Machine.execFsmBlock samples scores readPos s
  | .syncAlign burst => Sys2Proof.Machine.execSyncAlign burst s
  | .cfoEstimate frame => Sys2Proof.Machine.execCfoEstimate frame s
  | .cfoCorrect frame w => Sys2Proof.Machine.execCfoCorrect frame w s
  | .ofdmDemod frame => Sys2Proof.Machine.execOfdmDemod frame s
  | .chanEst syms => Sys2Proof.Machine.execChanEst syms s
  | .equalize syms chan => Sys2Proof.Machine.execEqualize syms chan s
  | .qpskDemap v => Sys2Proof.Machine.execQpskDemap v s
  | .bitSelect bits9 => Sys2Proof.Machine.execBitSelect bits9 s
  | .softMap bits => Sys2Proof.Machine.execSoftMap bits s
  | .rateDematch soft => Sys2Proof.Machine.execRateDematch soft s
  | .turboDecode d0 d1 d2 => Sys2Proof.Machine.execTurboDecode d0 d1 d2 s
  | .decode bits => Sys2Proof.Machine.execDecode bits s
  | .crc24Check block => Sys2Proof.Machine.execCrc24Check block s

end Sys2Proof.Machine
end

