-- ==== Sys2Proof/Machine/Step.lean ====
section
/-!
DEFINITION. One step of the block: it takes the next operation the host has issued, decodes it and runs it (spec 00_scope
R14, R15). With nothing issued the block is idle and holds its state (10 R38, 60 R375; log entry 10).
-/

namespace Sys2Proof.Machine

open Sys2Proof

/-- The refusal of an issued form that spells no operation (30 R121). -/
def refusalOf : DecodeError → Refusal
  | .reservedOpid b => .reservedOpid b
  | .operandMismatch b => .operandMismatch b

/-- One step. -/
def step (s : State) : Host.Outcome State Fault Refusal :=
  match s.issued with
  | [] => .next s
  | w :: _ =>
    match decode w with
    | .ok i => exec i s.takeIssue
    | .error e => .refused (refusalOf e)

/-- The state with one more operation at the head of the issued ones: the operation whose OPID bits are `w`, with operands
of zeros (log entries 9 and 26). -/
def State.withFetchWord (s : State) (nbits w : Nat) : State := { s with issued := issueOfBits nbits w :: s.issued }

end Sys2Proof.Machine
end

