-- ==== Sys2Proof/Machine/Exact.lean ====
section
/-!
DEFINITION. The reference instance of `NUMERICS`, exact real arithmetic (spec 00_scope R9, R11, R12; decision D4). The
machine does not run on it: its `NUMERICS` is the field of `Config.params`. The statements that the spec makes "in exact
arithmetic" are made of the unit functions at this instance.
-/

namespace Sys2Proof.Machine

open Sys2Proof

/-- `cexp(t) = cos(t) + j*sin(t)` (R11). -/
noncomputable def cexp (t : ℝ) : Cx ℝ := ⟨Real.cos t, Real.sin t⟩

/-- `z * w` (R11). -/
noncomputable def exactMul (z w : Cx ℝ) : Cx ℝ := ⟨z.re * w.re - z.im * w.im, z.re * w.im + z.im * w.re⟩

/-- `abs2(z)` (R11). -/
noncomputable def exactAbs2 (z : Cx ℝ) : ℝ := z.re * z.re + z.im * z.im

/-- `z / w = z * conj(w) / abs2(w)` (R11). -/
noncomputable def exactDiv (z w : Cx ℝ) : Cx ℝ :=
  let p := exactMul z ⟨w.re, -w.im⟩
  ⟨p.re / exactAbs2 w, p.im / exactAbs2 w⟩

/-- The sum of a vector. -/
noncomputable def exactSum (l : List (Cx ℝ)) : Cx ℝ := ⟨(l.map (·.re)).sum, (l.map (·.im)).sum⟩

/-- `arg(z)` (R11). -/
noncomputable def exactArg (z : Cx ℝ) : ℝ := Complex.arg ⟨z.re, z.im⟩

/-- `sum_{m<n} x[m] * cexp(sign * 2 * pi * k * m / n)`, the two transforms of R12 for `sign = -1` and `sign = 1`. -/
noncomputable def exactTransform (sign : ℝ) (x : List (Cx ℝ)) (k : Nat) : Cx ℝ :=
  exactSum (x.mapIdx fun m z => exactMul z (cexp (sign * 2 * Real.pi * k * m / x.length)))

/-- Exact real arithmetic. -/
noncomputable def exactNumerics : Numerics ℝ ℝ where
  widen x := x
  narrow x := x
  roundOpen x := x
  ofNat n := n
  isZero x := decide (x = 0)
  ge x y := decide (y ≤ x)
  add x y := x + y
  sub x y := x - y
  mul x y := x * y
  div x y := x / y
  divNat x n := x / n
  cisZero z := decide (z.re = 0 ∧ z.im = 0)
  cadd z w := ⟨z.re + w.re, z.im + w.im⟩
  csub z w := ⟨z.re - w.re, z.im - w.im⟩
  cmul z w := exactMul z w
  cdiv z w := exactDiv z w
  conj z := ⟨z.re, -z.im⟩
  cdivNat z n := ⟨z.re / n, z.im / n⟩
  abs2 z := exactAbs2 z
  arg z := exactArg z
  csum l := exactSum l
  energy l := (l.map exactAbs2).sum
  dot l := exactSum (l.map fun p => exactMul p.1 p.2)
  cexpPi a b := cexp (Real.pi * a / b)
  derotate w n := cexp (-w * n)
  dft x k := exactTransform (-1) x k
  idft x m := exactTransform 1 x m

end Sys2Proof.Machine
end

