-- ==== Sys2Proof/Safety.lean ====
section
/-!
DEFINITION. What every run keeps (`State.Inv`), and what a safe run is, in the terms the statements use.
-/

namespace Sys2Proof.Machine

open Sys2Proof

/-- The configuration registers are those one `CONFIGURE` writes (spec 10 R23, 30 R103 to R109). -/
structure Regs.ConfigOk (P : Params) (r : Regs) : Prop where
  fromRate : fftSizeOf P r.sampleRate = .ok r.fftSize
  sizeOk : fftSizeOk r.fftSize = true
  cpLong : r.cpLong = cpLongOf r.fftSize
  cpShort : r.cpShort = cpShortOf r.fftSize
  frameLen : r.frameLen = frameLenOf r.fftSize
  burstLen : r.burstLen = burstLenOf P r.fftSize
  burstFits : r.burstLen < 2 ^ 32
  root : zcRootOfSymbol r.pilotSel.toNat = some r.zcRoot

/-- The reference buffers have the lengths and the indices of 10 R33. -/
structure Regs.ReferenceOk (r : Regs) : Prop where
  zcTime : r.zcTime.length = r.fftSize
  zcFreq : r.zcFreq.length = 600
  dcIdx : r.dcIdx = carrierIndices r.fftSize

/-- The invariant of 10 R28: waiting with nothing collected, or collecting at least one sample and fewer than a burst. -/
def Regs.DetectorOk (r : Regs) : Prop :=
  match r.fsm with
  | .waiting => r.collected = 0
  | .collecting _ => 1 ≤ r.collected ∧ r.collected < r.burstLen

/-- The persistent registers of U2 (10 R31): `T0` holds a value once samples are held; windows already scored lie in the
history; the running sums exist exactly once a score has been produced, `WIN_SUM` only if `XC_MEAN_REMOVE`. -/
structure Regs.CorrelatorOk (P : Params) (r : Regs) : Prop where
  position : r.hist ≠ [] → r.t0.isSome
  next : r.xcNext ≤ r.xcCount
  energy : r.winEnergy.isSome = decide (0 < r.xcNext)
  sum : r.winSum.isSome = (P.xcMeanRemove && decide (0 < r.xcNext))

/-- What holds of the registers of a `READY` instance between operations. -/
structure Regs.Inv (P : Params) (r : Regs) : Prop where
  config : r.ConfigOk P
  reference : r.ReferenceOk
  detector : r.DetectorOk
  correlator : r.CorrelatorOk P
  noTransient : r.trans = {}

/-- A configuration error, the only codes `ERR_CODE` takes in `FAILED` (60 R343: `E_CFG_ZC_ROOT` cannot arise from
`CONFIGURE`). -/
def Code.isConfigError (c : Code) : Prop := c = .eCfgSampleRate ∨ c = .eCfgFftSize ∨ c = .eCfgSymbolIndex

/-- What holds of every state of a run between operations. -/
def State.Inv (s : State) : Prop :=
  match s.inst with
  | .unconfigured => True
  | .ready r => r.Inv Config.params
  | .failed c => c.isConfigError

/-- Every issued form spells an operation. -/
def State.WellIssued (s : State) : Prop := ∀ w ∈ s.issued, ∃ i, decode w = .ok i

/-- A run of `k` steps that neither faults nor is refused. -/
def SafeRun (k : Nat) (s : State) : Prop := ∃ t, Sys2Proof.core.run k s = .next t

end Sys2Proof.Machine
end

