-- ==== Sys2Proof/Certificates/Slice0/Obligations.lean ====
section
/-!
DEFINITION. The statements. Each docstring names the rules of the spec it formalises; one that rests on a choice of the
model says so and names its log entry. `exec ... = .next { s with ... }` states the whole next state, so the frame too:
whatever the record update does not name is unchanged.
-/

namespace Sys2Proof.Terms

open Sys2Proof Sys2Proof.Machine

/-! ### IEEE-754 values, written from the field layout of spec 30_encoding R100 -/

/-- A binary32 that is neither a NaN nor an infinity. -/
def f32Finite (x : F32) : Prop := x.toNat / 2 ^ 23 % 2 ^ 8 ≠ 255

/-- A binary32 that is a NaN. -/
def f32Nan (x : F32) : Prop := x.toNat / 2 ^ 23 % 2 ^ 8 = 255 ∧ x.toNat % 2 ^ 23 ≠ 0

/-- The value of a finite binary32. -/
def f32Value (x : F32) : ℚ :=
  let sign : ℚ := if x.toNat / 2 ^ 31 = 1 then -1 else 1
  let expo : ℕ := x.toNat / 2 ^ 23 % 2 ^ 8
  let frac : ℕ := x.toNat % 2 ^ 23
  if expo = 0 then sign * frac * 2 ^ (-149 : ℤ) else sign * (2 ^ 23 + frac) * 2 ^ ((expo : ℤ) - 150)

/-- A binary64 that is neither a NaN nor an infinity. -/
def f64Finite (x : F64) : Prop := x.toNat / 2 ^ 52 % 2 ^ 11 ≠ 2047

/-- The value of a finite binary64. -/
def f64Value (x : F64) : ℚ :=
  let sign : ℚ := if x.toNat / 2 ^ 63 = 1 then -1 else 1
  let expo : ℕ := x.toNat / 2 ^ 52 % 2 ^ 11
  let frac : ℕ := x.toNat % 2 ^ 52
  if expo = 0 then sign * frac * 2 ^ (-1074 : ℤ) else sign * (2 ^ 52 + frac) * 2 ^ ((expo : ℤ) - 1075)

/-- The sign of a binary32 as the tests `x > 0` and `x < 0` see it: 1, -1, and 0 for a zero of either sign or a NaN. -/
def f32Sign (x : F32) : ℤ :=
  if 0 < x.toNat ∧ x.toNat ≤ 0x7F800000 then 1
  else if 0x80000000 < x.toNat ∧ x.toNat ≤ 0xFF800000 then -1
  else 0

/-! ### Sizes and configurations -/

/-- An admitted FFT size: a power of two, at least 1024 (30 R103). -/
def AdmittedSize (n : ℕ) : Prop := ∃ k, 10 ≤ k ∧ n = 2 ^ k

/-- The 300 bins left of `n/2`, then the 300 right of it (40 R140). -/
def dataCarriers (n : ℕ) : List ℕ :=
  (List.range 300).map (fun i => n / 2 - 300 + i) ++ (List.range 300).map (fun i => n / 2 + 1 + i)

/-- `9 * n + 2 * (5 * n / 64) + 7 * (9 * n / 128)` (30 R104, R106). -/
def frameLength (n : ℕ) : ℕ := 9 * n + 2 * (5 * n / 64) + 7 * (9 * n / 128)

/-- The state after a successful `CONFIGURE` of `n` and `root` (10 R39, 48 R321). -/
def configured (P : Params) (sampleRate : F64) (threshold : F32) (pilotSel : Byte) (n root : ℕ) (s : State) : State :=
  { s with
    inst := .ready {
      sampleRate := sampleRate, fftSize := n, cpLong := 5 * n / 64, cpShort := 9 * n / 128, frameLen := frameLength n,
      burstLen := frameLength n + P.burstPad, pilotSel := pilotSel, zcRoot := root, threshold := threshold,
      thrLatch := none, fsm := .waiting, burstBuf := [],
      tapsVar := xcorrTapsVar P.numerics (zcTime P.numerics n (zcFrequency P.numerics P.zcRemoved root)),
      t0 := none, xcNext := 0, winEnergy := none, winSum := none,
      zcTime := zcTime P.numerics n (zcFrequency P.numerics P.zcRemoved root),
      zcFreq := zcFrequency P.numerics P.zcRemoved root, dcIdx := dataCarriers n,
      taps := xcorrTaps P.numerics (zcTime P.numerics n (zcFrequency P.numerics P.zcRemoved root)),
      hist := [], trans := {} },
    lastStatus := .ok, reply := some .done }

/-- The state after a failed `CONFIGURE` (10 R40, 60 R343). -/
def configFailed (e : Record) (s : State) : State :=
  { s with inst := .failed e.code, lastStatus := e.code, out := s.out ++ [.status e.code 0], reply := some (.error e) }

/-- The registers only `CONFIGURE` writes, `THRESHOLD` apart (10 R23, R33). -/
def configOf (r : Regs) : (F64 × ℕ × ℕ × ℕ) × (ℕ × ℕ × Byte × ℕ) × List C32 × List C64 × List ℕ :=
  ((r.sampleRate, r.fftSize, r.cpLong, r.cpShort), (r.frameLen, r.burstLen, r.pilotSel, r.zcRoot), r.zcTime, r.zcFreq,
   r.dcIdx)

/-- A status of 60 R341 that a burst can end with, beside `OK` (60 R353). -/
def DropCode (c : Code) : Prop := c = .eSyncRange ∨ c = .sDecoderFail ∨ c = .sCrcFail

/-- How one burst of a block ends: its code, and the payload sent if there is one. -/
structure BurstEnd where
  code : Code
  payload : Option (List Byte)

/-- The messages of one burst, in the order of 20 R82. -/
def burstMessages (b : Burst) (e : BurstEnd) : List OutMsg :=
  .burst b :: (e.payload.toList.map fun bytes => .payload bytes b.start) ++ [.status e.code b.start]

/-- What a burst can end with: `OK` and a payload of 176 bytes whose CRC residual is 0, or a drop code and no payload. -/
def BurstEndOk (e : BurstEnd) : Prop :=
  (∃ bytes, e = ⟨.ok, some bytes⟩ ∧ bytes.length = 176 ∧ crc24 bytes = 0) ∨ (DropCode e.code ∧ e.payload = none)

/-- The loop of 48 R324 over the bursts of a block, in order, by `run`, the operation `PROCESS_BURST`: each burst is sent on
`OUT_BURST` and then processed on the state reached, and `u` is where the loop ends. -/
def Delivered (run : List C32 → U64 → State → Host.Outcome State Fault Refusal) : List Burst → State → State → Prop
  | [], s, u => u = s
  | b :: bs, s, u =>
    ∃ t, run b.samples b.start { s with out := s.out ++ [.burst b] } = .next t ∧ Delivered run bs t u

/-- What `PROCESS_BLOCK` does on a `READY` instance that accepts the call (48 R324, R325; 20 R82): the samples, scores and
positions U3 is fed, U3's new state, `PROCESS_BURST` of every burst in turn, the messages sent, and `LAST_STATUS`. -/
def BlockOutcome (P : Params) (run : List C32 → U64 → State → Host.Outcome State Fault Refusal) (r : Regs)
    (samples : List C32) (readPos : U64) (scores : List F32) (s t : State) : Prop :=
  ∃ (r1 : Regs) (fed : List (C32 × F32)) (pos : U64) (u : State) (ends : List BurstEnd),
    (P.scoreSrc = .external → r1 = r ∧ fed = samples.zip scores ∧ pos = readPos) ∧
    (P.scoreSrc = .internal →
      r1 = (r.xcorrPush P samples readPos).1 ∧
      (let sc := (r.xcorrPush P samples readPos).2
       let lo := max r.xcNext P.dPre
       fed = (List.range (r.xcNext + sc.length - lo)).map (fun k =>
         ((r.hist ++ samples).getD (lo + k - P.dPre) ⟨0, 0⟩, sc.getD (lo + k - r.xcNext) 0)) ∧
       (fed ≠ [] → ∃ t0, r1.t0 = some t0 ∧ pos = t0 + BitVec.ofNat 64 (lo - P.dPre)))) ∧
    (let d := Detector.run r.burstLen r.threshold pos fed ⟨r.fsm, r.burstBuf⟩
     let inst := Inst.ready { r1 with thrLatch := some r.threshold, fsm := d.1.fsm, burstBuf := d.1.buf }
     let quiet := d.2 = [] ∧ P.scoreSrc = .internal ∧ r1.hist.length ≤ r1.taps.length
     Delivered run d.2 { s with inst := inst } u ∧
     t = { u with
       lastStatus := if quiet then .nInsufficientData else u.lastStatus
       reply := some (if quiet then .error ⟨.nInsufficientData, .processBlock, .absorbed r1.hist.length⟩ else .done) } ∧
     t.inst = inst ∧ t.issued = s.issued ∧
     ends.length = d.2.length ∧ (∀ e ∈ ends, BurstEndOk e) ∧
     t.out = s.out ++ (d.2.zip ends).flatMap (fun be => burstMessages be.1 be.2) ∧
     (∀ e, ends.getLast? = some e → t.lastStatus = e.code) ∧
     (d.2 = [] → ¬quiet → t.lastStatus = s.lastStatus))

/-! ### Frames -/

/-- The first sample of the pilot's cyclic prefix (30 R110). -/
def pilotPrefix (r : Regs) : ℕ :=
  if r.pilotSel = 4 then 3 * r.fftSize + r.cpLong + 2 * r.cpShort else 5 * r.fftSize + r.cpLong + 4 * r.cpShort

/-- `SYNC_OFFSET` (30 R111). -/
def pilotUseful (r : Regs) : ℕ := pilotPrefix r + r.cpShort

/-- The pilot selector is one of its two legal values, and `FRAME_LEN` is the schedule's (10 R23). -/
def FrameOk (r : Regs) : Prop :=
  (r.pilotSel = 4 ∨ r.pilotSel = 6) ∧ r.frameLen = 9 * r.fftSize + 2 * r.cpLong + 7 * r.cpShort

/-- Where symbol `j`'s useful part starts, for `j` in 1 .. 9 (30 R105, R110). -/
def usefulStart (r : Regs) (j : ℕ) : ℕ :=
  (j - 1) * r.fftSize + r.cpLong + (j - 1) * r.cpShort + (if j = 9 then r.cpLong - r.cpShort else 0)

/-- The estimate of 43 R204 on a frame: the angle of the dot product of the pilot's cyclic prefix, conjugated, with the same
samples `N` later, divided by `N`; 0 where that product is 0. -/
def frameCfo (ν : Numerics F32 HReal) (r : Regs) (frame : List C32) : HReal :=
  let head := (frame.drop (pilotPrefix r)).take r.cpShort
  let tail := (frame.drop (pilotPrefix r + r.fftSize)).take r.cpShort
  let d := ν.dot ((head.map fun z => ν.conj (widenC ν z)).zip (tail.map (widenC ν)))
  if ν.cisZero d then 0 else ν.divNat (ν.arg d) r.fftSize

/-- The frame derotated by `w` radians per sample (43 R205). -/
def derotated (ν : Numerics F32 HReal) (r : Regs) (frame : List C32) (w : HReal) : List C32 :=
  (List.range r.frameLen).map fun n => narrowC ν (ν.cmul (widenC ν (frame.getD n ⟨0, 0⟩)) (ν.derotate w n))

/-- The nine symbols of a frame (44 R220). Data carrier `i` of a symbol is bin `N - 300 + i` of the transform of its useful
part for the 300 left of DC, and bin `i - 299` for the 300 right of it. -/
def frameGrid (ν : Numerics F32 HReal) (r : Regs) (frame : List C32) : List (List C32) :=
  (List.range 9).map fun j =>
    let x := ((frame.drop (usefulStart r (j + 1))).take r.fftSize).map (widenC ν)
    (List.range 600).map fun i => narrowC ν (ν.dft x (if i < 300 then r.fftSize - 300 + i else i - 299))

/-- Element `i` of row `j` of a grid. -/
def gridAt (g : List (List C32)) (j i : ℕ) : C32 := (g.getD j []).getD i ⟨0, 0⟩

/-- The channel estimate of 44 R221, `free` being what stands where the received pilot carrier is zero. -/
def gridChannel (ν : Numerics F32 HReal) (r : Regs) (free : ℕ → C32) (syms : List (List C32)) : List C32 :=
  (List.range 600).map fun i =>
    let v := widenC ν (gridAt syms (r.pilotSel.toNat - 1) i)
    if ν.cisZero v then free i else narrowC ν (ν.cdiv (r.zcFreq.getD i ⟨0, 0⟩) v)

/-- The equalized grid of 44 R222. -/
def gridEqualized (ν : Numerics F32 HReal) (r : Regs) (syms : List (List C32)) (chan : List C32) : List (List C32) :=
  (List.range 9).map fun j => (List.range 600).map fun i =>
    if j + 1 = r.pilotSel.toNat then gridAt syms j i
    else narrowC ν (ν.cmul (widenC ν (gridAt syms j i)) (widenC ν (chan.getD i ⟨0, 0⟩)))

/-- How many of the 7200 received values go to element `i` of stream `σ` (46 R264, R265). -/
def timesSent (σ i : ℕ) : ℕ := ((List.range 7200).filter fun k => source (selection.getD k 0) = (σ, i)).length

/-- The signed carrier number of data carrier `i` (40 R149). -/
def carrierNumber (i : ℕ) : ℤ := if i < 300 then (i : ℤ) - 300 else (i : ℤ) - 299

end Sys2Proof.Terms

open Sys2Proof Sys2Proof.Machine Sys2Proof.Terms

/-! ### Reading an operation -/

/-- 30 R118, R119, R125: the decoder answers `i` exactly on the one issued form of a well-formed `i`. That `PROCESS_BLOCK` is
read with and without scores in either mode is log entry 15; that a form with other operand values, or a grid of another
shape, spells no operation is the model's choice, log entry 18. -/
def Obligations.DecodeIffEncode : Prop :=
  ∀ (w : Issue) (i : Instr), decode w = .ok i ↔ i.wf = true ∧ w = encode i

/-- 30 R119, R121: the OPIDs that are refused as reserved are exactly those not in the table. -/
def Obligations.ReservedOpidsRefused : Prop :=
  ∀ (b : Byte) (args : List Value),
    decode ⟨b, args⟩ = .error (.reservedOpid b) ↔
      b.toNat ∉ [0x00, 0x01, 0x02, 0x03, 0x04, 0x10, 0x11, 0x12, 0x20, 0x21, 0x30, 0x40, 0x41, 0x42, 0x50, 0x60, 0x61,
        0x70, 0x71, 0x80, 0x81, 0x82, 0x83, 0x90]

/-- 30 R119: a few OPIDs, written out, name the operations of the table (with operands of zeros, log entry 26). -/
def Obligations.TableWordsDecode : Prop :=
  decodeTableWord 8 0x00 = some .reset ∧
  decodeTableWord 8 0x02 = some (.setThreshold 0) ∧
  decodeTableWord 8 0x12 = some (.zcFreq 0) ∧
  decodeTableWord 8 0x30 = some (.fsmBlock [] [] 0) ∧
  decodeTableWord 8 0x83 = some (.decode []) ∧
  decodeTableWord 8 0x90 = some (.crc24Check []) ∧
  decodeTableWord 8 0x05 = none

/-- 00 R14, R15: a step runs the next issued operation, on the state from which it has been taken. How issued
operations wait is the model's choice (log entry 9). -/
def Obligations.StepRunsDecoded : Prop :=
  ∀ (s : State) (w : Issue) (rest : List Issue) (i : Instr),
    s.issued = w :: rest → decode w = .ok i → step s = exec i { s with issued := rest }

/-- The model's choice (log entries 9, 10): with nothing issued a step changes nothing; an issued form that spells no
operation is refused under the name the decoder gives. -/
def Obligations.StepIdleOrRefused : Prop :=
  (∀ s : State, s.issued = [] → step s = .next s) ∧
  (∀ (s : State) (w : Issue) (rest : List Issue) (b : Byte),
    s.issued = w :: rest → decode w = .error (.reservedOpid b) → step s = .refused (.reservedOpid b)) ∧
  (∀ (s : State) (w : Issue) (rest : List Issue) (b : Byte),
    s.issued = w :: rest → decode w = .error (.operandMismatch b) → step s = .refused (.operandMismatch b))

/-! ### Reset and the invariant -/

/-- 10 R38: power-on. That nothing is issued, and that a step then changes nothing, is the model's form of the rule's last
sentence (log entries 9 and 10). -/
def Obligations.PowerOnState : Prop :=
  State.reset.instState = .unconfigured ∧ State.reset.errCode.byte = 0 ∧ State.reset.lastStatus.byte = 0 ∧
  State.reset.regs? = none ∧ State.reset.issued = [] ∧ State.reset.out = [] ∧
  (∀ n, 2 ≤ n → n ≤ 13 → State.reset.register n = .noValue) ∧ step State.reset = .next State.reset

/-- The invariant holds at power-on. -/
def Obligations.InvAtPowerOn : Prop := State.Inv State.reset

/-- 10 R22, R23, R28, R31, R33, R42: every step keeps the invariant of `Safety.lean`: the configuration registers are those
of one `CONFIGURE`, the reference buffers have their lengths and indices, the detector is waiting with nothing collected or
collecting fewer samples than a burst, U2's registers agree with its history, no transient holds a value, and a failed
instance holds a configuration error. When the running sums come to exist is log entry 24. -/
def Obligations.InvKept : Prop := ∀ s t : State, s.Inv → step s = .next t → t.Inv

/-- 20 R62, 48 R320: from every state of the invariant in which every issued form spells an operation, a step answers a
next state, with that operation taken; so no index is ever out of its buffer and no absent register is ever read. -/
def Obligations.StepProgress : Prop :=
  ∀ s : State, s.Inv → s.WellIssued → ∃ t, step s = .next t ∧ t.WellIssued ∧ t.issued = s.issued.tail

/-! ### CONFIGURE, RESET, SET_THRESHOLD -/

/-- 48 R321, 10 R39, 30 R103 to R109: `CONFIGURE` at a sample rate of exactly 15000 times an admitted size. The
rate's value is read by the binary64 layout of log entry 19. -/
def Obligations.ConfigureAdmitted : Prop :=
  ∀ (s : State) (sampleRate : F64) (threshold : F32) (pilotSel : Byte) (n root : ℕ),
    f64Finite sampleRate → f64Value sampleRate = 15000 * n → AdmittedSize n →
    (pilotSel = 4 ∧ root = 600 ∨ pilotSel = 6 ∧ root = 147) → frameLength n + Config.params.burstPad < 2 ^ 32 →
    exec (.configure sampleRate threshold pilotSel) s =
      .next (configured Config.params sampleRate threshold pilotSel n root s)

/-- 30 R103, 48 R321, 60 R343, R353, 10 R39, R40: every outcome of `CONFIGURE` in every state and for every instance `P`,
in the order of its checks; the operation is the instance `Config.params`. The stage of the record is log entry 28; that the
checks on the rate are exact is log entry 29, and the binary64 layout they read is log entry 19. -/
def Obligations.ConfigureOutcome : Prop :=
  (∀ (s : State) (sampleRate : F64) (threshold : F32) (pilotSel : Byte),
    exec (.configure sampleRate threshold pilotSel) s =
      .next (configure Config.params sampleRate threshold pilotSel s)) ∧
  ∀ (P : Params) (s : State) (sampleRate : F64) (threshold : F32) (pilotSel : Byte),
    let badRate := configFailed ⟨.eCfgSampleRate, .configure, .sampleRate sampleRate⟩ s
    let tol : ℚ := (P.rateTol.1 : ℚ) / P.rateTol.2
    (¬(f64Finite sampleRate ∧ 0 < f64Value sampleRate) →
      configure P sampleRate threshold pilotSel s = badRate) ∧
    ∀ n : ℕ, f64Finite sampleRate → 0 < f64Value sampleRate → |f64Value sampleRate - 15000 * n| ≤ 7500 →
      (tol < |f64Value sampleRate - 15000 * n| → configure P sampleRate threshold pilotSel s = badRate) ∧
      (|f64Value sampleRate - 15000 * n| ≤ tol → ¬AdmittedSize n →
        configure P sampleRate threshold pilotSel s = configFailed ⟨.eCfgFftSize, .configure, .fftSize n⟩ s) ∧
      (|f64Value sampleRate - 15000 * n| ≤ tol → AdmittedSize n → pilotSel ≠ 4 → pilotSel ≠ 6 →
        configure P sampleRate threshold pilotSel s =
          configFailed ⟨.eCfgSymbolIndex, .configure, .symbolIndex pilotSel⟩ s) ∧
      (|f64Value sampleRate - 15000 * n| ≤ tol → AdmittedSize n → pilotSel = 4 ∨ pilotSel = 6 →
        2 ^ 32 ≤ frameLength n + P.burstPad →
        configure P sampleRate threshold pilotSel s = configFailed ⟨.eCfgFftSize, .configure, .fftSize n⟩ s) ∧
      (|f64Value sampleRate - 15000 * n| ≤ tol → AdmittedSize n → frameLength n + P.burstPad < 2 ^ 32 →
        (pilotSel = 4 → configure P sampleRate threshold pilotSel s =
          configured P sampleRate threshold pilotSel n 600 s) ∧
        (pilotSel = 6 → configure P sampleRate threshold pilotSel s =
          configured P sampleRate threshold pilotSel n 147 s))

/-- 48 R322, R323; 10 R24, R41: `RESET` in every state, and `SET_THRESHOLD` on a `READY` instance. Clearing the transients
on `RESET` is 10 R42's column (log entry 27). -/
def Obligations.ResetAndSetThreshold : Prop :=
  (∀ (s : State) (r : Regs), s.inst = .ready r →
    exec .reset s =
      .next { s with inst := .ready { r with fsm := .waiting, burstBuf := [], trans := {} }, reply := some .done }) ∧
  (∀ s : State, s.instState ≠ .ready → exec .reset s = .next { s with reply := some .done }) ∧
  (∀ (s : State) (r : Regs) (t : F32), s.inst = .ready r →
    exec (.setThreshold t) s = .next { s with inst := .ready { r with threshold := t }, reply := some .done })

/-- 60 R347, R350, R342: every operation but `CONFIGURE` and `RESET`, issued while the instance is not `READY`, raises
`E_NOT_READY` and does nothing else; only the two of the processing agent write `LAST_STATUS` and send a message. -/
def Obligations.NotReadyRefused : Prop :=
  ∀ (i : Instr) (s : State), s.instState ≠ .ready → i.op ≠ .reset → i.op ≠ .configure →
    ((i.op = .processBlock ∨ i.op = .processBurst) →
      exec i s = .next { s with lastStatus := .eNotReady, out := s.out ++ [.status .eNotReady 0],
                                reply := some (.error ⟨.eNotReady, i.op, .notReady s.instState⟩) }) ∧
    (i.op ≠ .processBlock → i.op ≠ .processBurst →
      exec i s = .next { s with reply := some (.error ⟨.eNotReady, i.op, .notReady s.instState⟩) })

/-- 60 R350, 20 R77, 48 R322, R323: what no operation but the agent's touches, and the operations that are pure. -/
def Obligations.UnitOperationFrame : Prop :=
  ∀ (i : Instr) (s t : State), exec i s = .next t →
    (i.op ∉ [.configure, .processBlock, .processBurst] →
      t.lastStatus = s.lastStatus ∧ t.out = s.out ∧ t.issued = s.issued) ∧
    (i.op ∉ [.reset, .configure, .setThreshold, .processBlock, .processBurst, .xcorrInit, .xcorrPush, .fsmBlock] →
      t.inst = s.inst)

/-- 10 R22, R23, R24, 60 R370: `INST_STATE`, `ERR_CODE`, the configuration and the reference are changed by `CONFIGURE`
alone, `THRESHOLD` by `CONFIGURE` and `SET_THRESHOLD` alone. -/
def Obligations.OnlyConfigureChangesConfiguration : Prop :=
  ∀ (i : Instr) (s t : State), exec i s = .next t → i.op ≠ .configure →
    t.instState = s.instState ∧ t.errCode = s.errCode ∧ t.regs?.map configOf = s.regs?.map configOf ∧
    (i.op ≠ .setThreshold → t.regs?.map (·.threshold) = s.regs?.map (·.threshold))

/-- 10 R37: the register table of a `READY` instance. -/
def Obligations.RegisterTable : Prop :=
  ∀ (s : State) (r : Regs), s.inst = .ready r →
    s.register 0x00 = .value 2 1 ∧ s.register 0x01 = .value 8 0 ∧ s.register 0x02 = .value 64 r.sampleRate.toNat ∧
    s.register 0x03 = .value 32 r.fftSize ∧ s.register 0x04 = .value 32 r.cpLong ∧
    s.register 0x05 = .value 32 r.cpShort ∧ s.register 0x06 = .value 32 r.frameLen ∧
    s.register 0x07 = .value 32 r.burstLen ∧ s.register 0x08 = .value 8 r.pilotSel.toNat ∧
    s.register 0x09 = .value 32 r.zcRoot ∧ s.register 0x0A = .value 32 r.threshold.toNat ∧
    (r.fsm = .waiting → s.register 0x0B = .value 1 0 ∧ s.register 0x0D = .noValue) ∧
    (∀ k, r.fsm = .collecting k → s.register 0x0B = .value 1 1 ∧ s.register 0x0D = .value 64 k.toNat) ∧
    s.register 0x0C = .value 32 r.burstBuf.length ∧ s.register 0x0E = .value 8 s.lastStatus.byte.toNat ∧
    ∀ n, 15 ≤ n → s.register n = .reserved

/-! ### U1 -/

/-- 40 R140: `DATA_CARRIER_INDICES`, and its one error. -/
def Obligations.DataCarrierIndicesResult : Prop :=
  ∀ (s : State) (r : Regs) (n : U32), s.inst = .ready r →
    (AdmittedSize n.toNat →
      exec (.dataCarrierIndices n) s = .next { s with reply := some (.indices (dataCarriers n.toNat)) }) ∧
    (¬AdmittedSize n.toNat →
      exec (.dataCarrierIndices n) s =
        .next { s with reply := some (.error ⟨.eCfgFftSize, .dataCarrierIndices, .fftSize n.toNat⟩) })

/-- 40 R149: 600 distinct indices, symmetric about `N/2`, never `N/2` itself, at the signed carrier numbers
`-300 .. -1, 1 .. 300`. -/
def Obligations.CarrierIndicesSymmetric : Prop :=
  ∀ (s t : State) (n : U32) (idx : List ℕ),
    exec (.dataCarrierIndices n) s = .next t → t.reply = some (.indices idx) →
    idx.length = 600 ∧ idx.Nodup ∧ n.toNat / 2 ∉ idx ∧
    ∀ i, i < 600 →
      idx.getD i 0 + idx.getD (599 - i) 0 = n.toNat ∧ ((idx.getD i 0 : ℕ) : ℤ) - (n.toNat / 2 : ℕ) = carrierNumber i

/-- 40 R141: `ZC_FREQ`, element by element, and its one error. -/
def Obligations.ZcFreqResult : Prop :=
  ∀ (s : State) (r : Regs) (root : U32), s.inst = .ready r →
    (root = 600 ∨ root = 147 →
      exec (.zcFreq root) s = .next { s with reply := some (.c64s ((List.range 600).map fun i =>
        let m := if i < Config.params.zcRemoved then i else i + 1
        Config.params.numerics.cexpPi (-((root.toNat * m * (m + 1) : ℕ) : ℤ)) 601)) }) ∧
    (root ≠ 600 → root ≠ 147 →
      exec (.zcFreq root) s = .next { s with reply := some (.error ⟨.eCfgZcRoot, .zcFreq, .zcRoot root⟩) })

/-- 40 R143: `GENERATE_ZC`. The spectrum handed to the inverse transform is written bin by bin: DC and the guard bins zero,
the upper 300 values on bins 1 to 300, the lower 300 on the last 300 bins. The size is checked before the root; the root's
error names `ZC_FREQ`, the innermost operation that detects it (60 R342). What round to
nearest leaves open is `NUMERICS` (log entry 25); that the zero bins are the all-zero pattern is log entry 3. -/
def Obligations.GenerateZcResult : Prop :=
  ∀ (s : State) (r : Regs) (size root : U32), s.inst = .ready r →
    (AdmittedSize size.toNat → root = 600 ∨ root = 147 →
      let ν := Config.params.numerics
      let n := size.toNat
      let y := (List.range 600).map fun i =>
        let m := if i < Config.params.zcRemoved then i else i + 1
        ν.cexpPi (-((root.toNat * m * (m + 1) : ℕ) : ℤ)) 601
      let spectrum := Cx.zero :: y.drop 300 ++ List.replicate (n - 601) Cx.zero ++ y.take 300
      exec (.generateZc size root) s = .next { s with reply := some (.c32s ((List.range n).map fun m =>
        let t := ν.cdivNat (ν.idft spectrum m) n
        ⟨roundNearest ν.roundOpen t.re, roundNearest ν.roundOpen t.im⟩)) }) ∧
    (¬AdmittedSize size.toNat →
      exec (.generateZc size root) s =
        .next { s with reply := some (.error ⟨.eCfgFftSize, .generateZc, .fftSize size.toNat⟩) }) ∧
    (AdmittedSize size.toNat → root ≠ 600 → root ≠ 147 →
      exec (.generateZc size root) s = .next { s with reply := some (.error ⟨.eCfgZcRoot, .zcFreq, .zcRoot root⟩) })

/-- 40 R143, D10: the final rounding is to nearest: of a finite binary64 within the range of the finite binary32 values it
gives a finite binary32, and no finite binary32 is nearer, whatever `free` chooses on a tie (log entry 25; field layouts: log
entry 19). -/
def Obligations.RoundingIsToNearest : Prop :=
  ∀ (free : F64 → F32) (x : F64), f64Finite x → |f64Value x| ≤ f32Value 0x7F7FFFFF →
    f32Finite (roundNearest free x) ∧
    ∀ y : F32, f32Finite y → |f32Value (roundNearest free x) - f64Value x| ≤ |f32Value y - f64Value x|

/-- 40 R142 (a), (b), (c), in exact arithmetic: 601st roots of unity, unit magnitude, symmetry. -/
def Obligations.ZcSequenceUnitSymmetric : Prop :=
  ∀ root n : ℕ, n ≤ 600 →
    let z := fun k => (zcSequence exactNumerics root).getD k ⟨0, 0⟩
    (zcSequence exactNumerics root).length = 601 ∧
    z n = cexp (-(2 * Real.pi * ((root * n * (n + 1) / 2 % 601 : ℕ) : ℝ) / 601)) ∧
    exactAbs2 (z n) = 1 ∧ z n = z (600 - n)

/-- 40 R144, in exact arithmetic: the closed form of the time-domain reference before its rounding. -/
def Obligations.ZcTimeClosedForm : Prop :=
  ∀ (n m : ℕ) (y : List (Cx ℝ)), AdmittedSize n → y.length = 600 → m < n →
    (zcTimeExact exactNumerics n y)[m]? =
      some (exactNumerics.cdivNat (exactSum ((List.range 600).map fun i =>
        exactMul (y.getD i ⟨0, 0⟩) (cexp (2 * Real.pi * (carrierNumber i : ℝ) * m / n)))) n)

/-- 40 R145 (a), (c), in exact arithmetic: demodulating the reference recovers the 600 values on the data-carrier bins and
zero on every other bin; and its mean is zero. -/
def Obligations.ZcDemodulatesToItself : Prop :=
  ∀ (n : ℕ) (y : List (Cx ℝ)), AdmittedSize n → y.length = 600 →
    let G := centredSpectrum exactNumerics (zcTimeExact exactNumerics n y)
    G.length = n ∧ (∀ i, i < 600 → G.getD ((dataCarriers n).getD i 0) ⟨0, 0⟩ = y.getD i ⟨0, 0⟩) ∧
    (∀ k, k < n → k ∉ dataCarriers n → G.getD k ⟨1, 1⟩ = ⟨0, 0⟩) ∧
    exactSum (zcTimeExact exactNumerics n y) = ⟨0, 0⟩

/-! ### U2 -/

/-- 41 R160, R161: `XCORR_INIT` writes the conjugated, mean-centred taps and their population variance, nothing else. -/
def Obligations.XcorrInitResult : Prop :=
  ∀ (s : State) (r : Regs) (ref : List C32), s.inst = .ready r →
    let ν := Config.params.numerics
    let x := ref.map fun z : C32 => (⟨ν.widen z.re, ν.widen z.im⟩ : C64)
    let mu := ν.cdivNat (ν.csum x) ref.length
    exec (.xcorrInit ref) s = .next { s with
      inst := .ready { r with
        taps := x.map (fun z => ⟨ν.narrow (ν.conj (ν.csub z mu)).re, ν.narrow (ν.conj (ν.csub z mu)).im⟩)
        tapsVar := ν.divNat (ν.energy (x.map fun z => ν.csub z mu)) ref.length },
      reply := some .done }

/-- 41 R163, R165, R166: `XCORR_PUSH` writes U2's stream registers and nothing else, and returns the scores that have become
computable, as many as R163 (a) says; and, when exactly one window is complete and one sample arrives, the score and the
running-sum update of R163. `W` is the number of taps (log entry 16); the mean 0 of a
window whose mean is not removed is the all-zero pattern (log entry 3). -/
def Obligations.XcorrPushResult : Prop :=
  (∀ (s : State) (r : Regs) (samples : List C32) (readPos : U64), s.inst = .ready r →
    ∃ (scores : List F32) (e : Option HReal) (w : Option C64),
      exec (.xcorrPush samples readPos) s = .next { s with
        inst := .ready { r with
          t0 := if r.hist = [] then some readPos else r.t0
          hist := r.hist ++ samples
          xcNext := r.xcNext + scores.length
          winEnergy := e
          winSum := w },
        reply := some (.scores scores) } ∧
      scores.length = r.hist.length + samples.length - r.taps.length - r.xcNext) ∧
  (∀ (s : State) (r : Regs) (x leaving : C32) (rest : List C32) (readPos : U64), s.inst = .ready r →
    r.hist.drop r.xcNext = leaving :: rest → r.taps.length = rest.length + 1 →
    let ν := Config.params.numerics
    let len := rest.length + 1
    let window := (leaving :: rest).map (widenC ν)
    let energy := r.winEnergy.getD (ν.energy window)
    let sum := if r.winEnergy.isSome then r.winSum
      else if Config.params.xcMeanRemove then some (ν.csum window) else none
    let mean := match sum with
      | some t => ν.cdivNat t len
      | none => Cx.zero
    let dot := ν.dot (window.zip (r.taps.map (widenC ν)))
    let v := ν.sub (ν.divNat energy len) (ν.abs2 mean)
    let score := if ν.isZero (ν.mul r.tapsVar v) then 0
      else ν.narrow (ν.div (ν.abs2 dot) (ν.mul (ν.mul (ν.ofNat (len * len)) r.tapsVar) v))
    exec (.xcorrPush [x] readPos) s = .next { s with
      inst := .ready { r with
        hist := r.hist ++ [x]
        xcNext := r.xcNext + 1
        winEnergy := some (ν.sub (ν.add energy (ν.abs2 (widenC ν x))) (ν.abs2 (widenC ν leaving)))
        winSum := sum.map fun t => ν.csub (ν.cadd t (widenC ν x)) (widenC ν leaving) },
      reply := some (.scores [score]) })

/-- 41 R163 (a), (c): the scores returned and the registers left do not depend on how the stream is cut into calls; the
position given with a later call is ignored. -/
def Obligations.XcorrPushCut : Prop :=
  ∀ (s : State) (r : Regs) (xs ys : List C32) (p q : U64), s.inst = .ready r → (r.hist ≠ [] ∨ xs ≠ []) →
    ∃ (s1 s2 : State) (a b : List F32),
      exec (.xcorrPush xs p) s = .next s1 ∧ s1.reply = some (.scores a) ∧
      exec (.xcorrPush ys q) s1 = .next s2 ∧ s2.reply = some (.scores b) ∧
      exec (.xcorrPush (xs ++ ys) p) s = .next { s2 with reply := some (.scores (a ++ b)) }

/-- 41 R162, R163, in exact arithmetic: with the taps of a reference, the scores the running sums give, from the first
window on, are the ideal scores, for either value of `XC_MEAN_REMOVE`. -/
def Obligations.ScoresAreIdeal : Prop :=
  ∀ (mr : Bool) (ref x : List (Cx ℝ)), ref ≠ [] →
    let taps := xcorrTaps exactNumerics ref
    let var := xcorrTapsVar exactNumerics ref
    (xcorrLoop exactNumerics mr taps var x none).1 =
      (List.range (x.length - ref.length)).map fun i =>
        directScore exactNumerics mr taps var ref.length ((x.drop i).take ref.length)

/-- 41 R169, in exact arithmetic: `0 <= score(mean-free) <= score(mean-removed) <= 1`. -/
def Obligations.ScoreRange : Prop :=
  ∀ ref x : List (Cx ℝ), ref ≠ [] → x.length = ref.length →
    let score := fun mr => directScore exactNumerics mr (xcorrTaps exactNumerics ref)
      (xcorrTapsVar exactNumerics ref) ref.length x
    0 ≤ score false ∧ score false ≤ score true ∧ score true ≤ 1

/-- 41 R167, R168, in exact arithmetic: a window that is a nonzero multiple of the reference (plus any constant, where the
mean is removed) scores 1; multiplying a window by a nonzero constant leaves its score. -/
def Obligations.ScoreSelfMatchAndScale : Prop :=
  ∀ (mr : Bool) (ref : List (Cx ℝ)) (c : Cx ℝ), ref ≠ [] → c ≠ ⟨0, 0⟩ →
    let score := fun x => directScore exactNumerics mr (xcorrTaps exactNumerics ref)
      (xcorrTapsVar exactNumerics ref) ref.length x
    (∀ b : Cx ℝ, xcorrTapsVar exactNumerics ref ≠ 0 → (mr = true ∨ (b = ⟨0, 0⟩ ∧ exactSum ref = ⟨0, 0⟩)) →
      score (ref.map fun z => exactNumerics.cadd (exactMul c z) b) = 1) ∧
    (∀ x : List (Cx ℝ), x.length = ref.length → score (x.map fun z => exactMul c z) = score x)

/-! ### U3 -/

/-- 42 R183, R182: the transition table, one sample at a time, through `FSM_BLOCK`; every call latches the threshold. -/
def Obligations.FsmOneSample : Prop :=
  ∀ (s : State) (r : Regs) (x : C32) (score : F32) (pos : U64), s.inst = .ready r →
    (r.fsm = .waiting → f32Gt score r.threshold = false →
      exec (.fsmBlock [x] [score] pos) s = .next { s with
        inst := .ready { r with thrLatch := some r.threshold }, reply := some (.bursts []) }) ∧
    (r.fsm = .waiting → f32Gt score r.threshold = true → r.burstLen ≠ 1 →
      exec (.fsmBlock [x] [score] pos) s = .next { s with
        inst := .ready { r with thrLatch := some r.threshold, fsm := .collecting pos, burstBuf := [x] },
        reply := some (.bursts []) }) ∧
    (∀ k, r.fsm = .collecting k → r.burstBuf.length + 1 ≠ r.burstLen →
      exec (.fsmBlock [x] [score] pos) s = .next { s with
        inst := .ready { r with thrLatch := some r.threshold, burstBuf := r.burstBuf ++ [x] },
        reply := some (.bursts []) }) ∧
    (∀ k, r.fsm = .collecting k → r.burstBuf.length + 1 = r.burstLen →
      exec (.fsmBlock [x] [score] pos) s = .next { s with
        inst := .ready { r with thrLatch := some r.threshold, fsm := .waiting, burstBuf := [] },
        reply := some (.bursts [⟨r.burstBuf ++ [x], k⟩]) }) ∧
    (r.fsm = .waiting → f32Gt score r.threshold = true → r.burstLen = 1 →
      exec (.fsmBlock [x] [score] pos) s = .next { s with
        inst := .ready { r with thrLatch := some r.threshold, burstBuf := [] },
        reply := some (.bursts [⟨[x], pos⟩]) })

/-- 42 R185, 20 R74, 10 R30: with the threshold unchanged, cutting a block in two changes nothing; positions advance modulo
`2^64`. -/
def Obligations.FsmCut : Prop :=
  ∀ (s : State) (r : Regs) (xs ys : List C32) (cx cy : List F32) (pos : U64), s.inst = .ready r →
    cx.length = xs.length → cy.length = ys.length →
    ∃ (s1 s2 : State) (a b : List Burst),
      exec (.fsmBlock xs cx pos) s = .next s1 ∧ s1.reply = some (.bursts a) ∧
      exec (.fsmBlock ys cy (pos + BitVec.ofNat 64 xs.length)) s1 = .next s2 ∧ s2.reply = some (.bursts b) ∧
      exec (.fsmBlock (xs ++ ys) (cx ++ cy) pos) s = .next { s2 with reply := some (.bursts (a ++ b)) }

/-- 42 R182, R184, R185, R113: from `WAITING_FOR_THRESHOLD` every burst of a block is the `BURST_LEN` samples from a sample
whose score exceeds the threshold, tagged with that sample's position, and bursts never overlap. -/
def Obligations.BurstsAreDisjointSlices : Prop :=
  ∀ (s : State) (r : Regs) (samples : List C32) (scores : List F32) (pos : U64), s.inst = .ready r →
    r.fsm = .waiting → r.burstBuf = [] → 1 ≤ r.burstLen → scores.length = samples.length →
    ∃ (t : State) (ks : List ℕ),
      exec (.fsmBlock samples scores pos) s = .next t ∧
      t.reply = some (.bursts (ks.map fun k => ⟨(samples.drop k).take r.burstLen, pos + BitVec.ofNat 64 k⟩)) ∧
      ks.Pairwise (fun a b => a + r.burstLen ≤ b) ∧
      ∀ k ∈ ks, k + r.burstLen ≤ samples.length ∧ ∃ v, scores[k]? = some v ∧ f32Gt v r.threshold = true

/-- 42 R185: exactness, its four cases: no crossing; a first crossing at `K` and the stream ends before the burst is full;
the stream ends exactly when it is full; the stream goes on after it, and the rest is examined from
`WAITING_FOR_THRESHOLD`. -/
def Obligations.FsmExactness : Prop :=
  ∀ (s : State) (r : Regs) (samples : List C32) (scores : List F32) (pos : U64), s.inst = .ready r →
    r.fsm = .waiting → r.burstBuf = [] → scores.length = samples.length →
    ((∀ v ∈ scores, f32Gt v r.threshold = false) →
      exec (.fsmBlock samples scores pos) s = .next { s with
        inst := .ready { r with thrLatch := some r.threshold }, reply := some (.bursts []) }) ∧
    ∀ (K : ℕ) (v : F32), scores[K]? = some v → f32Gt v r.threshold = true →
      (∀ v' ∈ scores.take K, f32Gt v' r.threshold = false) →
      (samples.length < K + r.burstLen →
        exec (.fsmBlock samples scores pos) s = .next { s with
          inst := .ready { r with thrLatch := some r.threshold, fsm := .collecting (pos + BitVec.ofNat 64 K),
                                  burstBuf := samples.drop K },
          reply := some (.bursts []) }) ∧
      (samples.length = K + r.burstLen →
        exec (.fsmBlock samples scores pos) s = .next { s with
          inst := .ready { r with thrLatch := some r.threshold },
          reply := some (.bursts [⟨samples.drop K, pos + BitVec.ofNat 64 K⟩]) }) ∧
      (1 ≤ r.burstLen → K + r.burstLen ≤ samples.length →
        let past := K + r.burstLen
        ∃ (t : State) (later : List Burst),
          exec (.fsmBlock (samples.drop past) (scores.drop past) (pos + BitVec.ofNat 64 past)) s = .next t ∧
          t.reply = some (.bursts later) ∧
          exec (.fsmBlock samples scores pos) s = .next { t with
            reply := some (.bursts (⟨(samples.drop K).take r.burstLen, pos + BitVec.ofNat 64 K⟩ :: later)) })

/-- 42 R187 on the patterns of 30 R100 (field layout: log entry 19): false on a NaN; on finite values the strict order of
the values (so both zeros are equal); the infinities at the two ends. -/
def Obligations.ThresholdComparison : Prop :=
  ∀ x y : F32,
    (f32Nan x ∨ f32Nan y → f32Gt x y = false) ∧
    (f32Finite x → f32Finite y → (f32Gt x y = true ↔ f32Value y < f32Value x)) ∧
    (f32Gt x 0x7F800000 = false) ∧ (f32Gt 0xFF800000 y = false) ∧
    (f32Finite x → f32Gt x 0xFF800000 = true) ∧ (f32Finite y → f32Gt 0x7F800000 y = true) ∧
    (f32Gt 0x7F800000 0xFF800000 = true)

/-! ### Sizes -/

/-- 20 R75, 60 R345, R350: an operand of the wrong length is `E_SIZE`, and nothing is written but the record; for
`TURBO_DECODE` any number of streams but three is wrong too, and the length reported is free unless there are three streams
of one length, one free value being drawn (log entry 8). -/
def Obligations.SizeErrors : Prop :=
  ∀ (s : State) (r : Regs), s.inst = .ready r →
    let err := fun (stage : Op) (got expected : ℕ) =>
      Host.Outcome.next (φ := Fault) (ρ := Refusal)
        { s with reply := some (.error ⟨.eSize, stage, .size got expected⟩) }
    (∀ (x : List C32) (sc : List F32) (p : U64), sc.length ≠ x.length →
      exec (.fsmBlock x sc p) s = err .fsmBlock sc.length x.length) ∧
    (∀ b : List C32, b.length ≠ r.burstLen → exec (.syncAlign b) s = err .syncAlign b.length r.burstLen) ∧
    (∀ f : List C32, f.length ≠ r.frameLen →
      exec (.cfoEstimate f) s = err .cfoEstimate f.length r.frameLen ∧
      (∀ w, exec (.cfoCorrect f w) s = err .cfoCorrect f.length r.frameLen) ∧
      exec (.ofdmDemod f) s = err .ofdmDemod f.length r.frameLen) ∧
    (∀ b : List Byte, b.length ≠ 7200 →
      exec (.softMap b) s = err .softMap b.length 7200 ∧ exec (.decode b) s = err .decode b.length 7200) ∧
    (∀ x : List S8, x.length ≠ 7200 → exec (.rateDematch x) s = err .rateDematch x.length 7200) ∧
    (∀ b : List Byte, b.length ≠ 176 → exec (.crc24Check b) s = err .crc24Check b.length 176) ∧
    (∀ (d0 d1 : Option (List ℤ)) (d2 : List (List ℤ)), let ds := d0.toList ++ d1.toList ++ d2
      ¬(ds.length = 3 ∧ ∀ d ∈ ds, d.length = 1412) → ∃ got,
      exec (.turboDecode d0 d1 d2) s = .next { s with
        drawn := s.drawn + 1, reply := some (.error ⟨.eSize, .turboDecode, .size got 1412⟩) } ∧
      ∀ n, ds.length = 3 → (∀ d ∈ ds, d.length = n) → got = n) ∧
    (∀ (b : List C32) (p : U64), b.length ≠ r.burstLen →
      exec (.processBurst b p) s = .next { s with
        lastStatus := .eSize, out := s.out ++ [.status .eSize 0],
        reply := some (.error ⟨.eSize, .processBurst, .size b.length r.burstLen⟩) }) ∧
    (∀ (P : Params) (x : List C32) (p : U64) (sc : List F32), P.scoreSrc = .external → sc.length ≠ x.length →
      processBlock P x p sc s = .next { s with
        lastStatus := .eSize, out := s.out ++ [.status .eSize 0],
        reply := some (.error ⟨.eSize, .processBlock, .size sc.length x.length⟩) })

/-! ### U4 -/

/-- 43 R201, R202, R208; 30 R111: `SYNC_ALIGN` answers the least position whose metric is at least every other (0 if there
is none), and that position less `SYNC_OFFSET`. The
metric `NORMALIZED` is not rounded to `f32` (log entry 21), and with taps of another length than `N` it is the model's
choice (log entry 32). -/
def Obligations.SyncAlignResult : Prop :=
  ∀ (s : State) (r : Regs) (burst : List C32), s.inst = .ready r → r.pilotSel = 4 ∨ r.pilotSel = 6 →
    burst.length = r.burstLen → r.fftSize ≤ r.burstLen →
    let ν := Config.params.numerics
    let window := fun p => (burst.drop p).take r.fftSize
    let M := fun p =>
      if Config.params.syncMetric = .magsq then
        ν.abs2 (ν.dot (((window p).map (widenC ν)).zip (r.zcTime.map fun z => ν.conj (widenC ν z))))
      else directScore ν Config.params.xcMeanRemove r.taps r.tapsVar r.fftSize (window p)
    let last := r.burstLen - r.fftSize
    ∃ p : ℕ,
      exec (.syncAlign burst) s = .next { s with reply := some (.sync p ((p : ℤ) - (pilotUseful r : ℤ))) } ∧
      ((p ≤ last ∧ (∀ q, q ≤ last → ν.ge (M p) (M q) = true) ∧
          ∀ p', p' < p → ∃ q, q ≤ last ∧ ν.ge (M p') (M q) = false) ∨
        (p = 0 ∧ ∀ p', p' ≤ last → ∃ q, q ≤ last ∧ ν.ge (M p') (M q) = false))

/-- 43 R204, R205: `CFO_ESTIMATE` and `CFO_CORRECT`. That the real 0 of an estimate whose product is 0 is the all-zero pattern
is the model's choice (log entry 3). -/
def Obligations.CfoResults : Prop :=
  ∀ (s : State) (r : Regs) (frame : List C32), s.inst = .ready r → FrameOk r → frame.length = r.frameLen →
    exec (.cfoEstimate frame) s = .next { s with reply := some (.real (frameCfo Config.params.numerics r frame)) } ∧
    ∀ w, exec (.cfoCorrect frame w) s =
      .next { s with reply := some (.c32s (derotated Config.params.numerics r frame w)) }

/-- 43 R206, in exact arithmetic: a noiseless frame rotated at `w` radians per sample is estimated as `w` and corrected to
the frame times a constant phase. -/
def Obligations.CfoRoundTrip : Prop :=
  ∀ (l : Layout) (pilot : ℕ) (g : List (Cx ℝ)) (w phi : ℝ),
    let a := l.symCpStart pilot
    1 ≤ l.n → a + l.n + l.cpShort ≤ g.length →
    (∀ k, k < l.cpShort → g.getD (a + l.n + k) ⟨0, 0⟩ = g.getD (a + k) ⟨0, 0⟩) →
    (∃ k, k < l.cpShort ∧ g.getD (a + k) ⟨0, 0⟩ ≠ ⟨0, 0⟩) →
    -Real.pi < w * l.n → w * l.n ≤ Real.pi →
    let f := g.mapIdx fun n z => exactMul z (cexp (w * n + phi))
    cfoEstimate exactNumerics l pilot f = some w ∧
    cfoCorrect exactNumerics f w = g.map fun z => exactMul z (cexp phi)

/-- 30 R105: the nine prefixes of a burst. -/
def Obligations.PrefixSchedule : Prop :=
  ∀ l : Layout,
    (List.range 9).map (fun i => l.cp (i + 1)) = l.cpLong :: List.replicate 7 l.cpShort ++ [l.cpLong] ∧
    ∀ j, 1 ≤ j → j ≤ 9 → (j = 1 ∨ j = 9 → l.cp j = l.cpLong) ∧ (2 ≤ j → j ≤ 8 → l.cp j = l.cpShort)

/-- 30 R105, R106 (decision D14): the prefix schedule, and the frame length it sums to. -/
def Obligations.FrameLengthOfSchedule : Prop :=
  (∀ (l : Layout) (j : ℕ), 1 ≤ j → j ≤ 9 →
    (j = 1 ∨ j = 9 → l.cp j = l.cpLong) ∧ (2 ≤ j → j ≤ 8 → l.cp j = l.cpShort)) ∧
  (∀ n : ℕ, frameLenOf n = ((List.range 9).map fun j =>
      Layout.cp ⟨n, cpLongOf n, cpShortOf n⟩ (j + 1) + n).sum ∧
    frameLenOf n = 9 * n + 2 * cpLongOf n + 7 * cpShortOf n) ∧
  frameLenOf 1024 = 9880

/-- 30 R110, R111: where every symbol of a frame lies: each prefix starts where the symbol before it ends, the last symbol
ends the frame, the pilots' useful parts start at `SYNC_OFFSET`, and the table at `N = 1024`. -/
def Obligations.FrameLayout : Prop :=
  (∀ l : Layout,
    l.symCpStart 1 = 0 ∧ (∀ j, 1 ≤ j → j ≤ 8 → l.symCpStart (j + 1) = l.symUsefulStart j + l.n) ∧
    (∀ j, l.symUsefulStart j = l.symCpStart j + l.cp j) ∧
    l.symUsefulStart 9 + l.n = 9 * l.n + 2 * l.cpLong + 7 * l.cpShort ∧
    l.syncOffset 4 = 3 * l.n + l.cpLong + 3 * l.cpShort ∧ l.syncOffset 6 = 5 * l.n + l.cpLong + 5 * l.cpShort) ∧
  (List.range 9).map (fun j => Layout.symUsefulStart ⟨1024, 80, 72⟩ (j + 1)) =
    [80, 1176, 2272, 3368, 4464, 5560, 6656, 7752, 8856]

/-! ### U5, U6 -/

/-- 44 R220: `OFDM_DEMOD`. That each element is held as `c32`, rounded once, is log entry 4. -/
def Obligations.OfdmDemodResult : Prop :=
  ∀ (s : State) (r : Regs) (frame : List C32), s.inst = .ready r → FrameOk r → AdmittedSize r.fftSize →
    r.cpShort ≤ r.cpLong → r.dcIdx = dataCarriers r.fftSize → frame.length = r.frameLen →
    exec (.ofdmDemod frame) s = .next { s with reply := some (.grid (frameGrid Config.params.numerics r frame)) }

/-- 44 R221, R222, 70 R386: `CHAN_EST`, with a free value where the received pilot carrier is zero (the statement holds for
whatever value `drawn` has; drawing one place for each carrier is the model's choice, log entry 7), and `EQUALIZE`.
That the estimates and the equalized values are held as `c32`, rounded once, is log entry 4. -/
def Obligations.ChannelResults : Prop :=
  ∀ (s : State) (r : Regs) (syms : List (List C32)), s.inst = .ready r → r.pilotSel = 4 ∨ r.pilotSel = 6 →
    r.zcFreq.length = 600 → isGrid 9 600 syms = true →
    exec (.chanEst syms) s = .next { s with
      drawn := s.drawn + 600,
      reply := some (.c32s (gridChannel Config.params.numerics r (fun i => Config.freeCplx (s.drawn + i)) syms)) } ∧
    ∀ chan : List C32, chan.length = 600 →
      exec (.equalize syms chan) s =
        .next { s with reply := some (.grid (gridEqualized Config.params.numerics r syms chan)) }

/-- 44 R223, in exact arithmetic: a gain per carrier that is the same for all nine symbols is removed from every row but the
pilot's, whatever the free values are. -/
def Obligations.EqualizationRemovesGain : Prop :=
  ∀ (pilot : ℕ) (H y : List (Cx ℝ)) (T : List (List (Cx ℝ))) (free : ℕ → Cx ℝ), 1 ≤ pilot → pilot ≤ 9 →
    H.length = 600 → y.length = 600 → isGrid 9 600 T = true → T.getD (pilot - 1) [] = y →
    (∀ h ∈ H, h ≠ ⟨0, 0⟩) → (∀ v ∈ y, v ≠ ⟨0, 0⟩) →
    let syms := T.map fun row => List.zipWith exactMul H row
    let chan := chanEst exactNumerics y pilot free syms
    chan = H.map (exactDiv ⟨1, 0⟩) ∧
    ∀ j, 1 ≤ j → j ≤ 9 → j ≠ pilot →
      (equalize exactNumerics pilot syms chan).getD (j - 1) [] = T.getD (j - 1) []

/-! ### U7 -/

/-- 45 R240: the complete table over the signs of the two components, each of which is positive, negative, or neither (a
zero of either sign, a NaN). The signs are read by the binary32 layout of log entry 19; the NaN case is the spec's inference. -/
def Obligations.QpskDemapResult : Prop :=
  ∀ (s : State) (r : Regs) (v : C32), s.inst = .ready r →
    exec (.qpskDemap v) s = .next { s with reply := some (
      if f32Sign v.re = 1 ∧ f32Sign v.im = 1 then .bitPair false false
      else if f32Sign v.re = 1 ∧ f32Sign v.im = -1 then .bitPair false true
      else if f32Sign v.re = -1 ∧ f32Sign v.im = 1 then .bitPair true false
      else .bitPair true true) }

/-- 45 R243, R241: `BIT_SELECT` returns the transform of the rows of `DATA_SYMS`, 1200 bits each, in that order; `DATA_SYMS`
is six distinct data symbols. -/
def Obligations.BitSelectResult : Prop :=
  ∀ (s : State) (r : Regs) (bits9 : List (List Bool)), s.inst = .ready r → isGrid 9 1200 bits9 = true →
    ∃ sel : List Bool,
      exec (.bitSelect bits9) s =
        .next { s with reply := some (.bits ((List.range 7200).map (Config.params.bitXform sel))) } ∧
      sel.length = 7200 ∧ Config.params.dataSyms.length = 6 ∧ Config.params.dataSyms.Nodup ∧
      (∀ j ∈ Config.params.dataSyms, 1 ≤ j ∧ j ≤ 9 ∧ j ≠ 4 ∧ j ≠ 6) ∧
      ∀ m k, m < 6 → k < 1200 →
        sel[1200 * m + k]? = (bits9.getD (Config.params.dataSyms.getD m 0 - 1) [])[k]?

/-! ### U8 -/

/-- 46 R260, 60 R351, R353: `SOFT_MAP` on 7200 elements, and the first offending element for it and for `DECODE`. -/
def Obligations.SoftMapResult : Prop :=
  ∀ (s : State) (r : Regs) (bits : List Byte), s.inst = .ready r → bits.length = 7200 →
    ((∀ b ∈ bits, b = 0 ∨ b = 1) →
      exec (.softMap bits) s =
        .next { s with reply := some (.soft (bits.map fun b => if b = 1 then 63 else -63)) }) ∧
    ∀ (k : ℕ) (v : Byte), bits[k]? = some v → v ≠ 0 → v ≠ 1 → (∀ b ∈ bits.take k, b = 0 ∨ b = 1) →
      exec (.softMap bits) s = .next { s with reply := some (.error ⟨.eBitValue, .softMap, .bitValue k v⟩) } ∧
      exec (.decode bits) s = .next { s with reply := some (.error ⟨.eBitValue, .softMap, .bitValue k v⟩) }

/-- 60 R351: an element that is neither 0 nor 1 makes `SOFT_MAP` and `DECODE` raise `E_BIT_VALUE`, handled like `E_SIZE`
(the record to the issuer, nothing else written); and no `PROCESS_BURST` ends with it. -/
def Obligations.BitValueErrors : Prop :=
  (∀ (s : State) (r : Regs) (bits : List Byte), s.inst = .ready r → bits.length = 7200 →
    (∃ b ∈ bits, b ≠ 0 ∧ b ≠ 1) → ∃ e : Record, e.code = .eBitValue ∧
      exec (.softMap bits) s = .next { s with reply := some (.error e) } ∧
      exec (.decode bits) s = .next { s with reply := some (.error e) }) ∧
  ∀ (s t : State) (burst : List C32) (start : U64) (e : Record), exec (.processBurst burst start) s = .next t →
    t.reply = some (.error e) → e.code ≠ .eBitValue

/-- 46 R265, R264: `RATE_DEMATCH`: each element of each stream is the sum of the soft values whose selected position holds
it. -/
def Obligations.RateDematchResult : Prop :=
  ∀ (s : State) (r : Regs) (soft : List S8), s.inst = .ready r → soft.length = 7200 →
    ∃ d : Streams ℤ,
      exec (.rateDematch soft) s = .next { s with reply := some (.streams d) } ∧
      ∀ σ, σ < 3 → (Streams.get d σ).length = 1412 ∧
        ∀ i, i < 1412 → (Streams.get d σ)[i]? = some ((((List.range 7200).filter fun k =>
          source (selection.getD k 0) = (σ, i)).map fun k => (soft.getD k 0).toInt).sum)

/-- 46 R261 to R264, R269, R270: the tables of the code: the permutations, the selection's spot values, and the trellis
table against the shift register. -/
def Obligations.CodeTables : Prop :=
  ((List.range 1440).map perm01).Perm (List.range 1440) ∧
  ((List.range 1440).map perm2).Perm (List.range 1440) ∧
  ((List.range 1408).map turboPerm).Perm (List.range 1408) ∧
  walkOnce.length = 4236 ∧ selection.length = 7200 ∧
  [0, 1349, 1350, 4145, 4147, 4148, 4235, 4236, 7199].map (fun k => selection.getD k 0) =
    [91, 1467, 1468, 4316, 4318, 1, 89, 91, 3113] ∧
  [91, 1467, 1468, 4316, 4318, 89, 3113].map source =
    [(0, 12), (2, 389), (1, 420), (1, 1379), (1, 1411), (0, 1396), (2, 814)] ∧
  ∀ (q : RscState) (u : Bool), trellis q.number u = ((rscStep q u).1.number, (rscStep q u).2)

/-- 46 R267: rate matching any three streams of bits, mapping the bits to soft values and dematching gives every bit back as
the sign of its soft value, with magnitude 63 for each time it was sent, once or twice. -/
def Obligations.RateMatchRoundTrip : Prop :=
  ∀ d : Streams Bool, (∀ σ, σ < 3 → (Streams.get d σ).length = 1412) →
    ∃ (soft : List S8) (ds : Streams ℤ),
      softMap ((rateMatch d).map byteOfBit) = .ok soft ∧ rateDematch soft = .ok ds ∧
      ∀ σ i, σ < 3 → i < 1412 →
        (timesSent σ i = 1 ∨ timesSent σ i = 2) ∧
        ∀ b, (Streams.get d σ)[i]? = some b →
          (Streams.get ds σ)[i]? = some (if b then 63 * (timesSent σ i : ℤ) else -(63 * (timesSent σ i : ℤ)))

/-- 46 R273, R274 (T1), 20 R72: `TURBO_DECODE` packs the decoded bits most significant first; on the dematched codeword of
a block the status is 0 and the bits are the block's. (T1) is imposed on the instance's decoder (log entry 6). -/
def Obligations.TurboDecodeResult : Prop :=
  ∀ (s : State) (r : Regs) (ds : Streams ℤ), s.inst = .ready r →
    ds.d0.length = 1412 → ds.d1.length = 1412 → ds.d2.length = 1412 →
    ∃ (status : ℤ) (c : List Bool) (bytes : List Byte),
      exec (.turboDecode (some ds.d0) (some ds.d1) [ds.d2]) s = .next { s with reply := some (.decoded status bytes) } ∧
      c.length = 1408 ∧ bytes.length = 176 ∧
      (∀ m i, m < 176 → i < 8 → (bytes.getD m 0).getLsbD (7 - i) = c.getD (8 * m + i) false) ∧
      ∀ c' : List Bool, c'.length = 1408 → ds = dematchBits (codeword c') → status = 0 ∧ c = c'

/-- 46 R282, R283, 60 R348, R349: `DECODE` of 7200 bits: a nonzero status is `S_DECODER_FAIL`; else a nonzero residual is
`S_CRC_FAIL`; else the block. The block has 176 bytes. The stage of the two failures is the model's choice (log entry
14). -/
def Obligations.DecodeResult : Prop :=
  ∀ (s : State) (r : Regs) (e : List Bool), s.inst = .ready r → e.length = 7200 →
    let run := turboDecode Config.params (dematchBits e)
    run.2.length = 176 ∧
    exec (.decode (e.map byteOfBit)) s = .next { s with reply := some (
      if run.1 ≠ 0 then .error ⟨.sDecoderFail, .decode, .decoderStatus run.1⟩
      else if crc24 run.2 ≠ 0 then .error ⟨.sCrcFail, .decode, .crcResidual (crc24 run.2)⟩
      else .block run.2) }

/-- 46 R283, first half; R272, 47 R302: every 173-byte payload, with its CRC attached, encoded and rate-matched, is decoded
to exactly the block it came from. It rests on (T1) (log entry 6). -/
def Obligations.DecodeRoundTrip : Prop :=
  ∀ (s : State) (r : Regs) (payload : List Byte), s.inst = .ready r → payload.length = 173 →
    let block := payload ++ crcTrailer (crc24 payload)
    exec (.decode ((codeword (bytesBits block)).map byteOfBit)) s = .next { s with reply := some (.block block) }

/-! ### U9 -/

/-- 47 R301, R300: `CRC24_CHECK`, with its check values. -/
def Obligations.CrcCheckResult : Prop :=
  (∀ (s : State) (r : Regs) (block : List Byte), s.inst = .ready r → block.length = 176 →
    exec (.crc24Check block) s = .next { s with reply := some (.crc (decide (crc24 block = 0)) (crc24 block)) }) ∧
  crc24 [0x31, 0x32, 0x33, 0x34, 0x35, 0x36, 0x37, 0x38, 0x39] = 0xCDE703 ∧ crc24 [0x01] = 0x864CFB

/-- 47 R300: the checksum is linear, and any number of zero bytes has checksum 0. -/
def Obligations.CrcLinear : Prop :=
  (∀ a b : List Byte, a.length = b.length → crc24 (List.zipWith (· ^^^ ·) a b) = crc24 a ^^^ crc24 b) ∧
  ∀ n, crc24 (List.replicate n 0) = 0

/-- 47 R301, R302, R303; 20 R71: the two conventions agree: the residual over all 176 bytes is 0 exactly when the last three
bytes, most significant first, are the checksum of the first 173. -/
def Obligations.CrcConventionsAgree : Prop :=
  ∀ block : List Byte, block.length = 176 →
    (crc24 block = 0 ↔ block.drop 173 = crcTrailer (crc24 (block.take 173)))

/-! ### PROCESS_BURST and PROCESS_BLOCK -/

/-- 48 R326, 43 R203, 60 R348 to R352, 20 R82: `PROCESS_BURST` on a burst of the right length: the stages in order with
their three early exits, exactly one status message, after the payload if there is one; no register of a `READY` instance
changes but `LAST_STATUS`. The number of free values drawn is the model's (log entry 7), and so are the stage of the two
records of `DECODE` (log entry 14), the zero pattern of the CFO estimate of a zero product (log entry 3), and the rounding of
the symbols, the channel and the equalized values to `c32` (log entry 4). -/
def Obligations.ProcessBurstResult : Prop :=
  ∀ (s : State) (r : Regs) (burst : List C32) (start : U64), s.inst = .ready r → r.Inv Config.params →
    burst.length = r.burstLen →
    let P := Config.params
    let ν := P.numerics
    let s0 := (r.syncAlign P burst).2
    let dropped := fun (e : Record) (drawn : ℕ) =>
      { s with
        lastStatus := e.code, out := s.out ++ [.status e.code start], reply := some (.error e), drawn := drawn }
    let frame := (burst.drop s0.toNat).take r.frameLen
    let syms := frameGrid ν r (derotated ν r frame (frameCfo ν r frame))
    let eq := gridEqualized ν r syms (gridChannel ν r (fun i => Config.freeCplx (s.drawn + i)) syms)
    let run := turboDecode P (dematchBits (bitSelect P (demapGrid eq)))
    exec (.processBurst burst start) s = .next (
      if s0 < 0 ∨ (r.burstLen : ℤ) < s0 + r.frameLen then dropped ⟨.eSyncRange, .syncAlign, .syncRange s0⟩ s.drawn
      else if run.1 ≠ 0 then dropped ⟨.sDecoderFail, .decode, .decoderStatus run.1⟩ (s.drawn + 600)
      else if crc24 run.2 ≠ 0 then dropped ⟨.sCrcFail, .decode, .crcResidual (crc24 run.2)⟩ (s.drawn + 600)
      else { s with
        lastStatus := .ok, out := s.out ++ [.payload run.2 start, .status .ok start], reply := some .done,
        drawn := s.drawn + 600 })

/-- 48 R324, R325, 20 R65, R82, 60 R346: `PROCESS_BLOCK` on a `READY` instance, with as many scores as samples where they
come from outside: it completes, and `BlockOutcome` says how; each burst is processed by `PROCESS_BURST` itself, on the state
reached. First for every instance `P`, then for the machine's operations. `W` is the number of taps (log entry 16); scores
given to an instance that computes its own are not used, and a call without scores has none (log entry 15); the stage and
the reply of the notice are the model's (log entries 12, 14). -/
def Obligations.ProcessBlockResult : Prop :=
  (∀ (P : Params) (s : State) (r : Regs) (samples : List C32) (readPos : U64) (scores : List F32),
    s.inst = .ready r → r.Inv P → (P.scoreSrc = .external → scores.length = samples.length) →
    ∃ t, processBlock P samples readPos scores s = .next t ∧
      BlockOutcome P (processBurst P) r samples readPos scores s t) ∧
  (∀ (s : State) (r : Regs) (samples : List C32) (readPos : U64) (scores : Option (List F32)),
    s.inst = .ready r → r.Inv Config.params →
    (Config.params.scoreSrc = .external → (scores.getD []).length = samples.length) →
    ∃ t, exec (.processBlock samples readPos scores) s = .next t ∧
      BlockOutcome Config.params (fun burst start => exec (.processBurst burst start)) r samples readPos
        (scores.getD []) s t)
end

