-- ==== Sys2Proof/Laws/State.lean ====
section
/-!
SUPPORT. One lemma per field per update of the state and of the registers, so that no proof unfolds a record update.
-/

namespace Sys2Proof.Machine

open Sys2Proof

/-! ### Updates of the state -/

@[simp] theorem State.withReply_inst (s : State) (r : Reply) : (s.withReply r).inst = s.inst := rfl
@[simp] theorem State.withReply_lastStatus (s : State) (r : Reply) : (s.withReply r).lastStatus = s.lastStatus := rfl
@[simp] theorem State.withReply_issued (s : State) (r : Reply) : (s.withReply r).issued = s.issued := rfl
@[simp] theorem State.withReply_out (s : State) (r : Reply) : (s.withReply r).out = s.out := rfl
@[simp] theorem State.withReply_reply (s : State) (r : Reply) : (s.withReply r).reply = some r := rfl
@[simp] theorem State.withReply_drawn (s : State) (r : Reply) : (s.withReply r).drawn = s.drawn := rfl

@[simp] theorem State.send_inst (s : State) (m : OutMsg) : (s.send m).inst = s.inst := rfl
@[simp] theorem State.send_lastStatus (s : State) (m : OutMsg) : (s.send m).lastStatus = s.lastStatus := rfl
@[simp] theorem State.send_issued (s : State) (m : OutMsg) : (s.send m).issued = s.issued := rfl
@[simp] theorem State.send_out (s : State) (m : OutMsg) : (s.send m).out = s.out ++ [m] := rfl
@[simp] theorem State.send_reply (s : State) (m : OutMsg) : (s.send m).reply = s.reply := rfl
@[simp] theorem State.send_drawn (s : State) (m : OutMsg) : (s.send m).drawn = s.drawn := rfl

@[simp] theorem State.withStatus_inst (s : State) (c : Code) : (s.withStatus c).inst = s.inst := rfl
@[simp] theorem State.withStatus_lastStatus (s : State) (c : Code) : (s.withStatus c).lastStatus = c := rfl
@[simp] theorem State.withStatus_issued (s : State) (c : Code) : (s.withStatus c).issued = s.issued := rfl
@[simp] theorem State.withStatus_out (s : State) (c : Code) : (s.withStatus c).out = s.out := rfl
@[simp] theorem State.withStatus_reply (s : State) (c : Code) : (s.withStatus c).reply = s.reply := rfl
@[simp] theorem State.withStatus_drawn (s : State) (c : Code) : (s.withStatus c).drawn = s.drawn := rfl

@[simp] theorem State.withInst_inst (s : State) (i : Inst) : (s.withInst i).inst = i := rfl
@[simp] theorem State.withInst_lastStatus (s : State) (i : Inst) : (s.withInst i).lastStatus = s.lastStatus := rfl
@[simp] theorem State.withInst_issued (s : State) (i : Inst) : (s.withInst i).issued = s.issued := rfl
@[simp] theorem State.withInst_out (s : State) (i : Inst) : (s.withInst i).out = s.out := rfl
@[simp] theorem State.withInst_reply (s : State) (i : Inst) : (s.withInst i).reply = s.reply := rfl
@[simp] theorem State.withInst_drawn (s : State) (i : Inst) : (s.withInst i).drawn = s.drawn := rfl

@[simp] theorem State.withRegs_inst (s : State) (r : Regs) : (s.withRegs r).inst = .ready r := rfl
@[simp] theorem State.withRegs_lastStatus (s : State) (r : Regs) : (s.withRegs r).lastStatus = s.lastStatus := rfl
@[simp] theorem State.withRegs_issued (s : State) (r : Regs) : (s.withRegs r).issued = s.issued := rfl
@[simp] theorem State.withRegs_out (s : State) (r : Regs) : (s.withRegs r).out = s.out := rfl
@[simp] theorem State.withRegs_reply (s : State) (r : Regs) : (s.withRegs r).reply = s.reply := rfl
@[simp] theorem State.withRegs_drawn (s : State) (r : Regs) : (s.withRegs r).drawn = s.drawn := rfl

@[simp] theorem State.draw_inst (s : State) (n : Nat) : (s.draw n).inst = s.inst := rfl
@[simp] theorem State.draw_lastStatus (s : State) (n : Nat) : (s.draw n).lastStatus = s.lastStatus := rfl
@[simp] theorem State.draw_issued (s : State) (n : Nat) : (s.draw n).issued = s.issued := rfl
@[simp] theorem State.draw_out (s : State) (n : Nat) : (s.draw n).out = s.out := rfl
@[simp] theorem State.draw_reply (s : State) (n : Nat) : (s.draw n).reply = s.reply := rfl
@[simp] theorem State.draw_drawn (s : State) (n : Nat) : (s.draw n).drawn = s.drawn + n := rfl

@[simp] theorem State.takeIssue_inst (s : State) : (s.takeIssue).inst = s.inst := rfl
@[simp] theorem State.takeIssue_lastStatus (s : State) : (s.takeIssue).lastStatus = s.lastStatus := rfl
@[simp] theorem State.takeIssue_issued (s : State) : (s.takeIssue).issued = s.issued.tail := rfl
@[simp] theorem State.takeIssue_out (s : State) : (s.takeIssue).out = s.out := rfl
@[simp] theorem State.takeIssue_reply (s : State) : (s.takeIssue).reply = s.reply := rfl
@[simp] theorem State.takeIssue_drawn (s : State) : (s.takeIssue).drawn = s.drawn := rfl

@[simp] theorem State.raiseDirect_inst (s : State) (e : Record) : (s.raiseDirect e).inst = s.inst := rfl
@[simp] theorem State.raiseDirect_lastStatus (s : State) (e : Record) : (s.raiseDirect e).lastStatus = s.lastStatus := rfl
@[simp] theorem State.raiseDirect_issued (s : State) (e : Record) : (s.raiseDirect e).issued = s.issued := rfl
@[simp] theorem State.raiseDirect_out (s : State) (e : Record) : (s.raiseDirect e).out = s.out := rfl
@[simp] theorem State.raiseDirect_reply (s : State) (e : Record) : (s.raiseDirect e).reply = some (.error e) := rfl
@[simp] theorem State.raiseDirect_drawn (s : State) (e : Record) : (s.raiseDirect e).drawn = s.drawn := rfl

@[simp] theorem State.raiseAgent_inst (s : State) (e : Record) : (s.raiseAgent e).inst = s.inst := rfl
@[simp] theorem State.raiseAgent_lastStatus (s : State) (e : Record) : (s.raiseAgent e).lastStatus = e.code := rfl
@[simp] theorem State.raiseAgent_issued (s : State) (e : Record) : (s.raiseAgent e).issued = s.issued := rfl
@[simp] theorem State.raiseAgent_out (s : State) (e : Record) : (s.raiseAgent e).out = s.out ++ [.status e.code 0] := rfl
@[simp] theorem State.raiseAgent_reply (s : State) (e : Record) : (s.raiseAgent e).reply = some (.error e) := rfl
@[simp] theorem State.raiseAgent_drawn (s : State) (e : Record) : (s.raiseAgent e).drawn = s.drawn := rfl

@[simp] theorem State.raiseConfig_inst (s : State) (e : Record) : (s.raiseConfig e).inst = .failed e.code := rfl
@[simp] theorem State.raiseConfig_lastStatus (s : State) (e : Record) : (s.raiseConfig e).lastStatus = e.code := rfl
@[simp] theorem State.raiseConfig_issued (s : State) (e : Record) : (s.raiseConfig e).issued = s.issued := rfl
@[simp] theorem State.raiseConfig_out (s : State) (e : Record) : (s.raiseConfig e).out = s.out ++ [.status e.code 0] := rfl
@[simp] theorem State.raiseConfig_reply (s : State) (e : Record) : (s.raiseConfig e).reply = some (.error e) := rfl
@[simp] theorem State.raiseConfig_drawn (s : State) (e : Record) : (s.raiseConfig e).drawn = s.drawn := rfl

@[simp] theorem State.noticeInsufficient_inst (s : State) (n : Nat) : (s.noticeInsufficient n).inst = s.inst := rfl
@[simp] theorem State.noticeInsufficient_lastStatus (s : State) (n : Nat) : (s.noticeInsufficient n).lastStatus = .nInsufficientData := rfl
@[simp] theorem State.noticeInsufficient_issued (s : State) (n : Nat) : (s.noticeInsufficient n).issued = s.issued := rfl
@[simp] theorem State.noticeInsufficient_out (s : State) (n : Nat) : (s.noticeInsufficient n).out = s.out := rfl
@[simp] theorem State.noticeInsufficient_reply (s : State) (n : Nat) : (s.noticeInsufficient n).reply = some (.error ⟨.nInsufficientData, .processBlock, .absorbed n⟩) := rfl
@[simp] theorem State.noticeInsufficient_drawn (s : State) (n : Nat) : (s.noticeInsufficient n).drawn = s.drawn := rfl

@[simp] theorem State.withFetchWord_issued (s : State) (n w : Nat) :
    (s.withFetchWord n w).issued = issueOfBits n w :: s.issued := rfl

@[simp] theorem State.withFetchWord_inst (s : State) (n w : Nat) : (s.withFetchWord n w).inst = s.inst := rfl

@[simp] theorem State.finish_ok (s : State) (v : Reply) : s.finish (.ok v) = s.withReply v := rfl

@[simp] theorem State.finish_error (s : State) (e : Record) : s.finish (.error e) = s.raiseDirect e := rfl

theorem State.withReply_eq (s : State) (r : Reply) : s.withReply r = { s with reply := some r } := rfl

theorem State.withRegs_eq (s : State) (r : Regs) : s.withRegs r = { s with inst := .ready r } := rfl

theorem State.raiseAgent_eq (s : State) (e : Record) :
    s.raiseAgent e =
      { s with lastStatus := e.code, out := s.out ++ [.status e.code 0], reply := some (.error e) } := rfl

theorem State.raiseDirect_eq (s : State) (e : Record) : s.raiseDirect e = { s with reply := some (.error e) } := rfl

theorem State.raiseConfig_eq (s : State) (e : Record) :
    s.raiseConfig e =
      { s with inst := .failed e.code, lastStatus := e.code, out := s.out ++ [.status e.code 0],
               reply := some (.error e) } := rfl

/-! ### Updates of the registers -/

@[simp] theorem Regs.latch_sampleRate (r : Regs) : (r.latch).sampleRate = r.sampleRate := rfl
@[simp] theorem Regs.latch_fftSize (r : Regs) : (r.latch).fftSize = r.fftSize := rfl
@[simp] theorem Regs.latch_cpLong (r : Regs) : (r.latch).cpLong = r.cpLong := rfl
@[simp] theorem Regs.latch_cpShort (r : Regs) : (r.latch).cpShort = r.cpShort := rfl
@[simp] theorem Regs.latch_frameLen (r : Regs) : (r.latch).frameLen = r.frameLen := rfl
@[simp] theorem Regs.latch_burstLen (r : Regs) : (r.latch).burstLen = r.burstLen := rfl
@[simp] theorem Regs.latch_pilotSel (r : Regs) : (r.latch).pilotSel = r.pilotSel := rfl
@[simp] theorem Regs.latch_zcRoot (r : Regs) : (r.latch).zcRoot = r.zcRoot := rfl
@[simp] theorem Regs.latch_threshold (r : Regs) : (r.latch).threshold = r.threshold := rfl
@[simp] theorem Regs.latch_thrLatch (r : Regs) : (r.latch).thrLatch = some r.threshold := rfl
@[simp] theorem Regs.latch_fsm (r : Regs) : (r.latch).fsm = r.fsm := rfl
@[simp] theorem Regs.latch_burstBuf (r : Regs) : (r.latch).burstBuf = r.burstBuf := rfl
@[simp] theorem Regs.latch_tapsVar (r : Regs) : (r.latch).tapsVar = r.tapsVar := rfl
@[simp] theorem Regs.latch_t0 (r : Regs) : (r.latch).t0 = r.t0 := rfl
@[simp] theorem Regs.latch_xcNext (r : Regs) : (r.latch).xcNext = r.xcNext := rfl
@[simp] theorem Regs.latch_winEnergy (r : Regs) : (r.latch).winEnergy = r.winEnergy := rfl
@[simp] theorem Regs.latch_winSum (r : Regs) : (r.latch).winSum = r.winSum := rfl
@[simp] theorem Regs.latch_zcTime (r : Regs) : (r.latch).zcTime = r.zcTime := rfl
@[simp] theorem Regs.latch_zcFreq (r : Regs) : (r.latch).zcFreq = r.zcFreq := rfl
@[simp] theorem Regs.latch_dcIdx (r : Regs) : (r.latch).dcIdx = r.dcIdx := rfl
@[simp] theorem Regs.latch_taps (r : Regs) : (r.latch).taps = r.taps := rfl
@[simp] theorem Regs.latch_hist (r : Regs) : (r.latch).hist = r.hist := rfl
@[simp] theorem Regs.latch_trans (r : Regs) : (r.latch).trans = r.trans := rfl

@[simp] theorem Regs.withDetector_sampleRate (r : Regs) (d : Detector) : (r.withDetector d).sampleRate = r.sampleRate := rfl
@[simp] theorem Regs.withDetector_fftSize (r : Regs) (d : Detector) : (r.withDetector d).fftSize = r.fftSize := rfl
@[simp] theorem Regs.withDetector_cpLong (r : Regs) (d : Detector) : (r.withDetector d).cpLong = r.cpLong := rfl
@[simp] theorem Regs.withDetector_cpShort (r : Regs) (d : Detector) : (r.withDetector d).cpShort = r.cpShort := rfl
@[simp] theorem Regs.withDetector_frameLen (r : Regs) (d : Detector) : (r.withDetector d).frameLen = r.frameLen := rfl
@[simp] theorem Regs.withDetector_burstLen (r : Regs) (d : Detector) : (r.withDetector d).burstLen = r.burstLen := rfl
@[simp] theorem Regs.withDetector_pilotSel (r : Regs) (d : Detector) : (r.withDetector d).pilotSel = r.pilotSel := rfl
@[simp] theorem Regs.withDetector_zcRoot (r : Regs) (d : Detector) : (r.withDetector d).zcRoot = r.zcRoot := rfl
@[simp] theorem Regs.withDetector_threshold (r : Regs) (d : Detector) : (r.withDetector d).threshold = r.threshold := rfl
@[simp] theorem Regs.withDetector_thrLatch (r : Regs) (d : Detector) : (r.withDetector d).thrLatch = r.thrLatch := rfl
@[simp] theorem Regs.withDetector_fsm (r : Regs) (d : Detector) : (r.withDetector d).fsm = d.fsm := rfl
@[simp] theorem Regs.withDetector_burstBuf (r : Regs) (d : Detector) : (r.withDetector d).burstBuf = d.buf := rfl
@[simp] theorem Regs.withDetector_tapsVar (r : Regs) (d : Detector) : (r.withDetector d).tapsVar = r.tapsVar := rfl
@[simp] theorem Regs.withDetector_t0 (r : Regs) (d : Detector) : (r.withDetector d).t0 = r.t0 := rfl
@[simp] theorem Regs.withDetector_xcNext (r : Regs) (d : Detector) : (r.withDetector d).xcNext = r.xcNext := rfl
@[simp] theorem Regs.withDetector_winEnergy (r : Regs) (d : Detector) : (r.withDetector d).winEnergy = r.winEnergy := rfl
@[simp] theorem Regs.withDetector_winSum (r : Regs) (d : Detector) : (r.withDetector d).winSum = r.winSum := rfl
@[simp] theorem Regs.withDetector_zcTime (r : Regs) (d : Detector) : (r.withDetector d).zcTime = r.zcTime := rfl
@[simp] theorem Regs.withDetector_zcFreq (r : Regs) (d : Detector) : (r.withDetector d).zcFreq = r.zcFreq := rfl
@[simp] theorem Regs.withDetector_dcIdx (r : Regs) (d : Detector) : (r.withDetector d).dcIdx = r.dcIdx := rfl
@[simp] theorem Regs.withDetector_taps (r : Regs) (d : Detector) : (r.withDetector d).taps = r.taps := rfl
@[simp] theorem Regs.withDetector_hist (r : Regs) (d : Detector) : (r.withDetector d).hist = r.hist := rfl
@[simp] theorem Regs.withDetector_trans (r : Regs) (d : Detector) : (r.withDetector d).trans = r.trans := rfl

@[simp] theorem Regs.withThreshold_sampleRate (r : Regs) (t : F32) : (r.withThreshold t).sampleRate = r.sampleRate := rfl
@[simp] theorem Regs.withThreshold_fftSize (r : Regs) (t : F32) : (r.withThreshold t).fftSize = r.fftSize := rfl
@[simp] theorem Regs.withThreshold_cpLong (r : Regs) (t : F32) : (r.withThreshold t).cpLong = r.cpLong := rfl
@[simp] theorem Regs.withThreshold_cpShort (r : Regs) (t : F32) : (r.withThreshold t).cpShort = r.cpShort := rfl
@[simp] theorem Regs.withThreshold_frameLen (r : Regs) (t : F32) : (r.withThreshold t).frameLen = r.frameLen := rfl
@[simp] theorem Regs.withThreshold_burstLen (r : Regs) (t : F32) : (r.withThreshold t).burstLen = r.burstLen := rfl
@[simp] theorem Regs.withThreshold_pilotSel (r : Regs) (t : F32) : (r.withThreshold t).pilotSel = r.pilotSel := rfl
@[simp] theorem Regs.withThreshold_zcRoot (r : Regs) (t : F32) : (r.withThreshold t).zcRoot = r.zcRoot := rfl
@[simp] theorem Regs.withThreshold_threshold (r : Regs) (t : F32) : (r.withThreshold t).threshold = t := rfl
@[simp] theorem Regs.withThreshold_thrLatch (r : Regs) (t : F32) : (r.withThreshold t).thrLatch = r.thrLatch := rfl
@[simp] theorem Regs.withThreshold_fsm (r : Regs) (t : F32) : (r.withThreshold t).fsm = r.fsm := rfl
@[simp] theorem Regs.withThreshold_burstBuf (r : Regs) (t : F32) : (r.withThreshold t).burstBuf = r.burstBuf := rfl
@[simp] theorem Regs.withThreshold_tapsVar (r : Regs) (t : F32) : (r.withThreshold t).tapsVar = r.tapsVar := rfl
@[simp] theorem Regs.withThreshold_t0 (r : Regs) (t : F32) : (r.withThreshold t).t0 = r.t0 := rfl
@[simp] theorem Regs.withThreshold_xcNext (r : Regs) (t : F32) : (r.withThreshold t).xcNext = r.xcNext := rfl
@[simp] theorem Regs.withThreshold_winEnergy (r : Regs) (t : F32) : (r.withThreshold t).winEnergy = r.winEnergy := rfl
@[simp] theorem Regs.withThreshold_winSum (r : Regs) (t : F32) : (r.withThreshold t).winSum = r.winSum := rfl
@[simp] theorem Regs.withThreshold_zcTime (r : Regs) (t : F32) : (r.withThreshold t).zcTime = r.zcTime := rfl
@[simp] theorem Regs.withThreshold_zcFreq (r : Regs) (t : F32) : (r.withThreshold t).zcFreq = r.zcFreq := rfl
@[simp] theorem Regs.withThreshold_dcIdx (r : Regs) (t : F32) : (r.withThreshold t).dcIdx = r.dcIdx := rfl
@[simp] theorem Regs.withThreshold_taps (r : Regs) (t : F32) : (r.withThreshold t).taps = r.taps := rfl
@[simp] theorem Regs.withThreshold_hist (r : Regs) (t : F32) : (r.withThreshold t).hist = r.hist := rfl
@[simp] theorem Regs.withThreshold_trans (r : Regs) (t : F32) : (r.withThreshold t).trans = r.trans := rfl

@[simp] theorem Regs.xcorrInit_sampleRate (r : Regs) (P : Params) (ref : List C32) : (r.xcorrInit P ref).sampleRate = r.sampleRate := rfl
@[simp] theorem Regs.xcorrInit_fftSize (r : Regs) (P : Params) (ref : List C32) : (r.xcorrInit P ref).fftSize = r.fftSize := rfl
@[simp] theorem Regs.xcorrInit_cpLong (r : Regs) (P : Params) (ref : List C32) : (r.xcorrInit P ref).cpLong = r.cpLong := rfl
@[simp] theorem Regs.xcorrInit_cpShort (r : Regs) (P : Params) (ref : List C32) : (r.xcorrInit P ref).cpShort = r.cpShort := rfl
@[simp] theorem Regs.xcorrInit_frameLen (r : Regs) (P : Params) (ref : List C32) : (r.xcorrInit P ref).frameLen = r.frameLen := rfl
@[simp] theorem Regs.xcorrInit_burstLen (r : Regs) (P : Params) (ref : List C32) : (r.xcorrInit P ref).burstLen = r.burstLen := rfl
@[simp] theorem Regs.xcorrInit_pilotSel (r : Regs) (P : Params) (ref : List C32) : (r.xcorrInit P ref).pilotSel = r.pilotSel := rfl
@[simp] theorem Regs.xcorrInit_zcRoot (r : Regs) (P : Params) (ref : List C32) : (r.xcorrInit P ref).zcRoot = r.zcRoot := rfl
@[simp] theorem Regs.xcorrInit_threshold (r : Regs) (P : Params) (ref : List C32) : (r.xcorrInit P ref).threshold = r.threshold := rfl
@[simp] theorem Regs.xcorrInit_thrLatch (r : Regs) (P : Params) (ref : List C32) : (r.xcorrInit P ref).thrLatch = r.thrLatch := rfl
@[simp] theorem Regs.xcorrInit_fsm (r : Regs) (P : Params) (ref : List C32) : (r.xcorrInit P ref).fsm = r.fsm := rfl
@[simp] theorem Regs.xcorrInit_burstBuf (r : Regs) (P : Params) (ref : List C32) : (r.xcorrInit P ref).burstBuf = r.burstBuf := rfl
@[simp] theorem Regs.xcorrInit_tapsVar (r : Regs) (P : Params) (ref : List C32) : (r.xcorrInit P ref).tapsVar = xcorrTapsVar P.numerics ref := rfl
@[simp] theorem Regs.xcorrInit_t0 (r : Regs) (P : Params) (ref : List C32) : (r.xcorrInit P ref).t0 = r.t0 := rfl
@[simp] theorem Regs.xcorrInit_xcNext (r : Regs) (P : Params) (ref : List C32) : (r.xcorrInit P ref).xcNext = r.xcNext := rfl
@[simp] theorem Regs.xcorrInit_winEnergy (r : Regs) (P : Params) (ref : List C32) : (r.xcorrInit P ref).winEnergy = r.winEnergy := rfl
@[simp] theorem Regs.xcorrInit_winSum (r : Regs) (P : Params) (ref : List C32) : (r.xcorrInit P ref).winSum = r.winSum := rfl
@[simp] theorem Regs.xcorrInit_zcTime (r : Regs) (P : Params) (ref : List C32) : (r.xcorrInit P ref).zcTime = r.zcTime := rfl
@[simp] theorem Regs.xcorrInit_zcFreq (r : Regs) (P : Params) (ref : List C32) : (r.xcorrInit P ref).zcFreq = r.zcFreq := rfl
@[simp] theorem Regs.xcorrInit_dcIdx (r : Regs) (P : Params) (ref : List C32) : (r.xcorrInit P ref).dcIdx = r.dcIdx := rfl
@[simp] theorem Regs.xcorrInit_taps (r : Regs) (P : Params) (ref : List C32) : (r.xcorrInit P ref).taps = xcorrTaps P.numerics ref := rfl
@[simp] theorem Regs.xcorrInit_hist (r : Regs) (P : Params) (ref : List C32) : (r.xcorrInit P ref).hist = r.hist := rfl
@[simp] theorem Regs.xcorrInit_trans (r : Regs) (P : Params) (ref : List C32) : (r.xcorrInit P ref).trans = r.trans := rfl

@[simp] theorem Regs.clearTransients_sampleRate (r : Regs) : (r.clearTransients).sampleRate = r.sampleRate := rfl
@[simp] theorem Regs.clearTransients_fftSize (r : Regs) : (r.clearTransients).fftSize = r.fftSize := rfl
@[simp] theorem Regs.clearTransients_cpLong (r : Regs) : (r.clearTransients).cpLong = r.cpLong := rfl
@[simp] theorem Regs.clearTransients_cpShort (r : Regs) : (r.clearTransients).cpShort = r.cpShort := rfl
@[simp] theorem Regs.clearTransients_frameLen (r : Regs) : (r.clearTransients).frameLen = r.frameLen := rfl
@[simp] theorem Regs.clearTransients_burstLen (r : Regs) : (r.clearTransients).burstLen = r.burstLen := rfl
@[simp] theorem Regs.clearTransients_pilotSel (r : Regs) : (r.clearTransients).pilotSel = r.pilotSel := rfl
@[simp] theorem Regs.clearTransients_zcRoot (r : Regs) : (r.clearTransients).zcRoot = r.zcRoot := rfl
@[simp] theorem Regs.clearTransients_threshold (r : Regs) : (r.clearTransients).threshold = r.threshold := rfl
@[simp] theorem Regs.clearTransients_thrLatch (r : Regs) : (r.clearTransients).thrLatch = r.thrLatch := rfl
@[simp] theorem Regs.clearTransients_fsm (r : Regs) : (r.clearTransients).fsm = r.fsm := rfl
@[simp] theorem Regs.clearTransients_burstBuf (r : Regs) : (r.clearTransients).burstBuf = r.burstBuf := rfl
@[simp] theorem Regs.clearTransients_tapsVar (r : Regs) : (r.clearTransients).tapsVar = r.tapsVar := rfl
@[simp] theorem Regs.clearTransients_t0 (r : Regs) : (r.clearTransients).t0 = r.t0 := rfl
@[simp] theorem Regs.clearTransients_xcNext (r : Regs) : (r.clearTransients).xcNext = r.xcNext := rfl
@[simp] theorem Regs.clearTransients_winEnergy (r : Regs) : (r.clearTransients).winEnergy = r.winEnergy := rfl
@[simp] theorem Regs.clearTransients_winSum (r : Regs) : (r.clearTransients).winSum = r.winSum := rfl
@[simp] theorem Regs.clearTransients_zcTime (r : Regs) : (r.clearTransients).zcTime = r.zcTime := rfl
@[simp] theorem Regs.clearTransients_zcFreq (r : Regs) : (r.clearTransients).zcFreq = r.zcFreq := rfl
@[simp] theorem Regs.clearTransients_dcIdx (r : Regs) : (r.clearTransients).dcIdx = r.dcIdx := rfl
@[simp] theorem Regs.clearTransients_taps (r : Regs) : (r.clearTransients).taps = r.taps := rfl
@[simp] theorem Regs.clearTransients_hist (r : Regs) : (r.clearTransients).hist = r.hist := rfl
@[simp] theorem Regs.clearTransients_trans (r : Regs) : (r.clearTransients).trans = {} := rfl

@[simp] theorem Regs.resetDetector_sampleRate (r : Regs) : (r.resetDetector).sampleRate = r.sampleRate := rfl
@[simp] theorem Regs.resetDetector_fftSize (r : Regs) : (r.resetDetector).fftSize = r.fftSize := rfl
@[simp] theorem Regs.resetDetector_cpLong (r : Regs) : (r.resetDetector).cpLong = r.cpLong := rfl
@[simp] theorem Regs.resetDetector_cpShort (r : Regs) : (r.resetDetector).cpShort = r.cpShort := rfl
@[simp] theorem Regs.resetDetector_frameLen (r : Regs) : (r.resetDetector).frameLen = r.frameLen := rfl
@[simp] theorem Regs.resetDetector_burstLen (r : Regs) : (r.resetDetector).burstLen = r.burstLen := rfl
@[simp] theorem Regs.resetDetector_pilotSel (r : Regs) : (r.resetDetector).pilotSel = r.pilotSel := rfl
@[simp] theorem Regs.resetDetector_zcRoot (r : Regs) : (r.resetDetector).zcRoot = r.zcRoot := rfl
@[simp] theorem Regs.resetDetector_threshold (r : Regs) : (r.resetDetector).threshold = r.threshold := rfl
@[simp] theorem Regs.resetDetector_thrLatch (r : Regs) : (r.resetDetector).thrLatch = r.thrLatch := rfl
@[simp] theorem Regs.resetDetector_fsm (r : Regs) : (r.resetDetector).fsm = .waiting := rfl
@[simp] theorem Regs.resetDetector_burstBuf (r : Regs) : (r.resetDetector).burstBuf = [] := rfl
@[simp] theorem Regs.resetDetector_tapsVar (r : Regs) : (r.resetDetector).tapsVar = r.tapsVar := rfl
@[simp] theorem Regs.resetDetector_t0 (r : Regs) : (r.resetDetector).t0 = r.t0 := rfl
@[simp] theorem Regs.resetDetector_xcNext (r : Regs) : (r.resetDetector).xcNext = r.xcNext := rfl
@[simp] theorem Regs.resetDetector_winEnergy (r : Regs) : (r.resetDetector).winEnergy = r.winEnergy := rfl
@[simp] theorem Regs.resetDetector_winSum (r : Regs) : (r.resetDetector).winSum = r.winSum := rfl
@[simp] theorem Regs.resetDetector_zcTime (r : Regs) : (r.resetDetector).zcTime = r.zcTime := rfl
@[simp] theorem Regs.resetDetector_zcFreq (r : Regs) : (r.resetDetector).zcFreq = r.zcFreq := rfl
@[simp] theorem Regs.resetDetector_dcIdx (r : Regs) : (r.resetDetector).dcIdx = r.dcIdx := rfl
@[simp] theorem Regs.resetDetector_taps (r : Regs) : (r.resetDetector).taps = r.taps := rfl
@[simp] theorem Regs.resetDetector_hist (r : Regs) : (r.resetDetector).hist = r.hist := rfl
@[simp] theorem Regs.resetDetector_trans (r : Regs) : (r.resetDetector).trans = {} := rfl

@[simp] theorem Regs.xcorrPush_sampleRate (P : Params) (r : Regs) (x : List C32) (p : U64) :
    (r.xcorrPush P x p).1.sampleRate = r.sampleRate := rfl
@[simp] theorem Regs.xcorrPush_fftSize (P : Params) (r : Regs) (x : List C32) (p : U64) :
    (r.xcorrPush P x p).1.fftSize = r.fftSize := rfl
@[simp] theorem Regs.xcorrPush_cpLong (P : Params) (r : Regs) (x : List C32) (p : U64) :
    (r.xcorrPush P x p).1.cpLong = r.cpLong := rfl
@[simp] theorem Regs.xcorrPush_cpShort (P : Params) (r : Regs) (x : List C32) (p : U64) :
    (r.xcorrPush P x p).1.cpShort = r.cpShort := rfl
@[simp] theorem Regs.xcorrPush_frameLen (P : Params) (r : Regs) (x : List C32) (p : U64) :
    (r.xcorrPush P x p).1.frameLen = r.frameLen := rfl
@[simp] theorem Regs.xcorrPush_burstLen (P : Params) (r : Regs) (x : List C32) (p : U64) :
    (r.xcorrPush P x p).1.burstLen = r.burstLen := rfl
@[simp] theorem Regs.xcorrPush_pilotSel (P : Params) (r : Regs) (x : List C32) (p : U64) :
    (r.xcorrPush P x p).1.pilotSel = r.pilotSel := rfl
@[simp] theorem Regs.xcorrPush_zcRoot (P : Params) (r : Regs) (x : List C32) (p : U64) :
    (r.xcorrPush P x p).1.zcRoot = r.zcRoot := rfl
@[simp] theorem Regs.xcorrPush_threshold (P : Params) (r : Regs) (x : List C32) (p : U64) :
    (r.xcorrPush P x p).1.threshold = r.threshold := rfl
@[simp] theorem Regs.xcorrPush_thrLatch (P : Params) (r : Regs) (x : List C32) (p : U64) :
    (r.xcorrPush P x p).1.thrLatch = r.thrLatch := rfl
@[simp] theorem Regs.xcorrPush_fsm (P : Params) (r : Regs) (x : List C32) (p : U64) :
    (r.xcorrPush P x p).1.fsm = r.fsm := rfl
@[simp] theorem Regs.xcorrPush_burstBuf (P : Params) (r : Regs) (x : List C32) (p : U64) :
    (r.xcorrPush P x p).1.burstBuf = r.burstBuf := rfl
@[simp] theorem Regs.xcorrPush_tapsVar (P : Params) (r : Regs) (x : List C32) (p : U64) :
    (r.xcorrPush P x p).1.tapsVar = r.tapsVar := rfl
@[simp] theorem Regs.xcorrPush_zcTime (P : Params) (r : Regs) (x : List C32) (p : U64) :
    (r.xcorrPush P x p).1.zcTime = r.zcTime := rfl
@[simp] theorem Regs.xcorrPush_zcFreq (P : Params) (r : Regs) (x : List C32) (p : U64) :
    (r.xcorrPush P x p).1.zcFreq = r.zcFreq := rfl
@[simp] theorem Regs.xcorrPush_dcIdx (P : Params) (r : Regs) (x : List C32) (p : U64) :
    (r.xcorrPush P x p).1.dcIdx = r.dcIdx := rfl
@[simp] theorem Regs.xcorrPush_taps (P : Params) (r : Regs) (x : List C32) (p : U64) :
    (r.xcorrPush P x p).1.taps = r.taps := rfl
@[simp] theorem Regs.xcorrPush_trans (P : Params) (r : Regs) (x : List C32) (p : U64) :
    (r.xcorrPush P x p).1.trans = r.trans := rfl
@[simp] theorem Regs.xcorrPush_hist (P : Params) (r : Regs) (x : List C32) (p : U64) :
    (r.xcorrPush P x p).1.hist = r.hist ++ x := rfl
@[simp] theorem Regs.xcorrPush_t0 (P : Params) (r : Regs) (x : List C32) (p : U64) :
    (r.xcorrPush P x p).1.t0 = if r.xcCount = 0 then some p else r.t0 := rfl
@[simp] theorem Regs.xcorrPush_xcNext (P : Params) (r : Regs) (x : List C32) (p : U64) :
    (r.xcorrPush P x p).1.xcNext = r.xcNext + (r.xcorrPush P x p).2.length := rfl

@[simp] theorem Regs.detector_fsm (r : Regs) : r.detector.fsm = r.fsm := rfl
@[simp] theorem Regs.detector_buf (r : Regs) : r.detector.buf = r.burstBuf := rfl

end Sys2Proof.Machine
end

