-- ==== Sys2Proof/Laws/Ops.lean ====
section
/-!
SUPPORT. For each shared operation, what it can do, said once: the readiness tests, the fault of a missing value, the
size check, and the buffer accesses of spec 00_scope R13 and 20_memory R87.
-/

namespace Sys2Proof.Machine

open Sys2Proof

/-! ### Readiness -/

theorem State.instState_ready {s : State} : s.instState = .ready ↔ ∃ r, s.inst = .ready r := by
  unfold State.instState
  cases s.inst <;> simp

theorem agentOp_ready {stage : Op} {s : State} {r : Regs} {body : Regs → Answer} (h : s.inst = .ready r) :
    agentOp stage s body = body r := by
  simp [agentOp, h]

theorem directOp_ready {stage : Op} {s : State} {r : Regs} {body : Regs → Answer} (h : s.inst = .ready r) :
    directOp stage s body = body r := by
  simp [directOp, h]

theorem agentOp_notReady {stage : Op} {s : State} {body : Regs → Answer} (h : s.instState ≠ .ready) :
    agentOp stage s body = .next (s.raiseAgent (notReadyError stage s)) := by
  unfold agentOp
  unfold State.instState at h
  cases hi : s.inst <;> simp_all

theorem directOp_notReady {stage : Op} {s : State} {body : Regs → Answer} (h : s.instState ≠ .ready) :
    directOp stage s body = .next (s.raiseDirect (notReadyError stage s)) := by
  unfold directOp
  unfold State.instState at h
  cases hi : s.inst <;> simp_all

/-- Everything an operation of the processing agent can do: run its body on the registers, or raise `E_NOT_READY`. -/
theorem agentOp_cases {stage : Op} {s : State} {body : Regs → Answer} {a : Answer} (h : agentOp stage s body = a) :
    (∃ r, s.inst = .ready r ∧ body r = a) ∨
    (s.instState ≠ .ready ∧ a = .next (s.raiseAgent (notReadyError stage s))) := by
  by_cases hr : s.instState = .ready
  · obtain ⟨r, hr⟩ := State.instState_ready.1 hr
    exact .inl ⟨r, hr, by rw [← h, agentOp_ready hr]⟩
  · exact .inr ⟨hr, by rw [← h, agentOp_notReady hr]⟩

/-- The same for a directly issued operation. -/
theorem directOp_cases {stage : Op} {s : State} {body : Regs → Answer} {a : Answer} (h : directOp stage s body = a) :
    (∃ r, s.inst = .ready r ∧ body r = a) ∨
    (s.instState ≠ .ready ∧ a = .next (s.raiseDirect (notReadyError stage s))) := by
  by_cases hr : s.instState = .ready
  · obtain ⟨r, hr⟩ := State.instState_ready.1 hr
    exact .inl ⟨r, hr, by rw [← h, directOp_ready hr]⟩
  · exact .inr ⟨hr, by rw [← h, directOp_notReady hr]⟩

@[simp] theorem orFault_some {α : Type} (f : Fault) (v : α) (body : α → Answer) :
    orFault f (some v) body = body v := rfl

@[simp] theorem orFault_none {α : Type} (f : Fault) (body : α → Answer) : orFault f none body = .fault f := rfl

theorem orFault_next {α : Type} {f : Fault} {x : Option α} {body : α → Answer} {t : State} :
    orFault f x body = .next t ↔ ∃ v, x = some v ∧ body v = .next t := by
  cases x <;> simp [orFault]

theorem State.finish_cases (s : State) (x : Except Record Reply) :
    (∃ v, x = .ok v ∧ s.finish x = s.withReply v) ∨ (∃ e, x = .error e ∧ s.finish x = s.raiseDirect e) := by
  cases x <;> simp

/-! ### Sizes -/

theorem checkSize_ok {α β : Type} {stage : Op} {v : List α} {n : Nat} {body : Except Record β} (h : v.length = n) :
    checkSize stage v n body = body := by simp [checkSize, h]

theorem checkSize_bad {α β : Type} {stage : Op} {v : List α} {n : Nat} {body : Except Record β} (h : v.length ≠ n) :
    checkSize stage v n body = .error (sizeError stage v.length n) := by simp [checkSize, h]

/-! ### Buffers -/

theorem memRead_eq_some {α : Type} {buf : List α} {i n : Nat} (h : i + n ≤ buf.length) :
    memRead buf i n = some ((buf.drop i).take n) := by simp [memRead, h]

/-- Everything `MemRead` can do. -/
theorem memRead_some_iff {α : Type} {buf v : List α} {i n : Nat} :
    memRead buf i n = some v ↔ i + n ≤ buf.length ∧ v = (buf.drop i).take n := by
  unfold memRead
  split
  · next h => simp [h, eq_comm]
  · next h => simp [h]

theorem memRead_length {α : Type} {buf v : List α} {i n : Nat} (h : memRead buf i n = some v) : v.length = n := by
  obtain ⟨hl, rfl⟩ := memRead_some_iff.1 h
  simp; omega

/-- A gather whose indices all lie in the buffer reads each of them. -/
theorem gather_eq_some {α : Type} [Inhabited α] {buf : List α} {idx : List Nat} (h : ∀ i ∈ idx, i < buf.length) :
    gather buf idx = some (idx.map fun i => buf.getD i default) := by
  induction idx with
  | nil => rfl
  | cons i is ih =>
    have hi : i < buf.length := h i (by simp)
    have his : ∀ j ∈ is, j < buf.length := fun j hj => h j (by simp [hj])
    simp [gather, ih his, hi]

theorem gather_length {α : Type} {buf v : List α} {idx : List Nat} (h : gather buf idx = some v) :
    v.length = idx.length := by
  induction idx generalizing v with
  | nil => simp_all [gather]
  | cons i is ih =>
    unfold gather at h
    split at h
    · next w ws hw hws => cases h; simp [ih hws]
    · cases h

@[simp] theorem scatter_nil {α : Type} (buf : List α) : scatter buf [] = buf := rfl

@[simp] theorem scatter_cons {α : Type} (buf : List α) (k : Nat) (v : α) (kvs : List (Nat × α)) :
    scatter buf ((k, v) :: kvs) = scatter (buf.set k v) kvs := rfl

@[simp] theorem scatter_length {α : Type} (buf : List α) (kvs : List (Nat × α)) :
    (scatter buf kvs).length = buf.length := by
  induction kvs generalizing buf with
  | nil => rfl
  | cons kv kvs ih => obtain ⟨k, v⟩ := kv; simp [ih]

/-- A scatter leaves every element it does not name. -/
theorem scatter_getElem?_of_not_mem {α : Type} (buf : List α) (kvs : List (Nat × α)) (p : Nat)
    (h : p ∉ kvs.map (·.1)) : (scatter buf kvs)[p]? = buf[p]? := by
  induction kvs generalizing buf with
  | nil => rfl
  | cons kv kvs ih =>
    obtain ⟨k, v⟩ := kv
    simp only [List.map_cons, List.mem_cons, not_or] at h
    rw [scatter_cons, ih _ h.2, List.getElem?_set_ne (Ne.symm h.1)]

/-- A scatter through distinct indices of the buffer leaves each value at its index. -/
theorem scatter_getElem?_of_mem {α : Type} (buf : List α) (kvs : List (Nat × α)) (k : Nat) (v : α)
    (hn : (kvs.map (·.1)).Nodup) (hm : (k, v) ∈ kvs) (hk : k < buf.length) : (scatter buf kvs)[k]? = some v := by
  induction kvs generalizing buf with
  | nil => simp at hm
  | cons kv kvs ih =>
    obtain ⟨k', v'⟩ := kv
    simp only [List.map_cons, List.nodup_cons] at hn
    rw [scatter_cons]
    rcases List.mem_cons.1 hm with heq | hmem
    · cases heq
      rw [scatter_getElem?_of_not_mem _ _ _ hn.1, List.getElem?_set_self hk]
    · exact ih _ hn.2 hmem (by simpa using hk)

@[simp] theorem scatterAdd_length (buf : List Int) (kvs : List (Nat × Int)) :
    (scatterAdd buf kvs).length = buf.length := by
  unfold scatterAdd
  induction kvs generalizing buf with
  | nil => rfl
  | cons kv kvs ih => simp [ih]

/-- A scatter with addition adds to each element everything sent to its index. -/
theorem scatterAdd_getElem? (buf : List Int) (kvs : List (Nat × Int)) (p : Nat) :
    (scatterAdd buf kvs)[p]? =
      buf[p]?.map fun x => x + ((kvs.filter fun kv => kv.1 == p).map (·.2)).sum := by
  unfold scatterAdd
  induction kvs generalizing buf with
  | nil => simp
  | cons kv kvs ih =>
    obtain ⟨k, v⟩ := kv
    rw [List.foldl_cons, ih]
    rw [List.getElem?_modify]
    by_cases h : k = p
    · subst h
      cases hb : buf[k]? with
      | none => simp
      | some x => simp; omega
    · have hkp : (k == p) = false := by simpa using h
      cases hb : buf[p]? with
      | none => simp
      | some x => simp [h]

@[simp] theorem swapHalves_length {α : Type} (x : List α) : (swapHalves x).length = x.length := by
  simp [swapHalves]; omega

/-- `SHIFT(x)[k] = x[(k + n/2) mod n]` (00 R12), for an even length. -/
theorem swapHalves_getElem? {α : Type} (x : List α) (h : x.length % 2 = 0) (k : Nat) (hk : k < x.length) :
    (swapHalves x)[k]? = x[(k + x.length / 2) % x.length]? := by
  unfold swapHalves
  by_cases hlt : k < x.length - x.length / 2
  · have hmod : (k + x.length / 2) % x.length = x.length / 2 + k := by
      rw [Nat.mod_eq_of_lt (by omega)]; omega
    rw [List.getElem?_append_left (by simpa using hlt), List.getElem?_drop, hmod]
  · have hmod : (k + x.length / 2) % x.length = k - (x.length - x.length / 2) := by
      have : k + x.length / 2 = (k - (x.length - x.length / 2)) + x.length := by omega
      rw [this, Nat.add_mod_right, Nat.mod_eq_of_lt (by omega)]
    rw [List.getElem?_append_right (by simpa using hlt), List.length_drop, List.getElem?_take_of_lt (by omega), hmod]

/-- What `argmax_first` answers (00 R13): the least index whose value is at least every other, or 0 where there is none. -/
theorem argmaxFirst_spec {R : Type} (ge : R → R → Bool) (m : List R) :
    (∃ x, m[argmaxFirst ge m]? = some x ∧ (∀ y ∈ m, ge x y = true) ∧
      ∀ q, q < argmaxFirst ge m → ∀ x', m[q]? = some x' → ∃ y ∈ m, ge x' y = false) ∨
    (argmaxFirst ge m = 0 ∧ ∀ x ∈ m, ∃ y ∈ m, ge x y = false) := by
  unfold argmaxFirst
  cases h : m.findIdx? (fun x => m.all fun y => ge x y) with
  | none =>
    right
    rw [List.findIdx?_eq_none_iff] at h
    refine ⟨rfl, fun x hx => ?_⟩
    have := h x hx
    simpa using this
  | some i =>
    left
    rw [List.findIdx?_eq_some_iff_getElem] at h
    obtain ⟨hi, hx, hlt⟩ := h
    refine ⟨m[i], by simp, ?_, ?_⟩
    · simpa using hx
    · intro q hq x' hx'
      have hql : q < m.length := by
        simp only [Option.getD_some] at hq; omega
      have := hlt q (by simpa using hq)
      rw [List.getElem?_eq_getElem hql] at hx'
      cases hx'
      simpa using this

end Sys2Proof.Machine
end

