-- ==== Sys2Proof/Laws/Layout.lean ====
section
/-!
SUPPORT. The sizes and positions of spec 30_encoding section 3, computed once: the frame layout as formulas, what an
admitted FFT size is, and where every window of a frame lies.
-/

namespace Sys2Proof.Machine

open Sys2Proof

theorem fftSizeOk_iff {n : Nat} : fftSizeOk n = true ↔ ∃ k, 10 ≤ k ∧ n = 2 ^ k := by
  unfold fftSizeOk
  simp only [Bool.and_eq_true, beq_iff_eq, decide_eq_true_eq]
  constructor
  · rintro ⟨h, hn⟩
    refine ⟨n.log2, ?_, h⟩
    by_contra hlt
    have : 2 ^ n.log2 ≤ 2 ^ 9 := Nat.pow_le_pow_right (by norm_num) (by omega)
    omega
  · rintro ⟨k, hk, rfl⟩
    refine ⟨by rw [Nat.log2_two_pow], ?_⟩
    calc 1024 = 2 ^ 10 := by norm_num
      _ ≤ 2 ^ k := Nat.pow_le_pow_right (by norm_num) hk

/-- An admitted size is a multiple of 1024, so both prefix lengths are exact quotients (30 R104). -/
theorem fftSizeOk_dvd {n : Nat} (h : fftSizeOk n = true) : ∃ q, 1 ≤ q ∧ n = 1024 * q := by
  obtain ⟨k, hk, rfl⟩ := fftSizeOk_iff.1 h
  refine ⟨2 ^ (k - 10), Nat.one_le_two_pow, ?_⟩
  rw [show (1024 : Nat) = 2 ^ 10 by norm_num, ← pow_add]
  congr 1; omega

theorem cpLongOf_mul (q : Nat) : cpLongOf (1024 * q) = 80 * q := by unfold cpLongOf; omega

theorem cpShortOf_mul (q : Nat) : cpShortOf (1024 * q) = 72 * q := by unfold cpShortOf; omega

theorem frameLenOf_mul (q : Nat) : frameLenOf (1024 * q) = 9880 * q := by
  unfold frameLenOf; rw [cpLongOf_mul, cpShortOf_mul]; omega

theorem Layout.symCpStart_four (l : Layout) : l.symCpStart 4 = 3 * l.n + l.cpLong + 2 * l.cpShort := by
  simp [Layout.symCpStart, Layout.cp, List.range_succ]; ring

theorem Layout.symCpStart_six (l : Layout) : l.symCpStart 6 = 5 * l.n + l.cpLong + 4 * l.cpShort := by
  simp [Layout.symCpStart, Layout.cp, List.range_succ]; ring

/-- The prefix of symbol `j + 1` starts where symbol `j` ends (30 R110). -/
theorem Layout.symCpStart_succ (l : Layout) (j : Nat) (h : 1 ≤ j) :
    l.symCpStart (j + 1) = l.symCpStart j + (l.cp j + l.n) := by
  obtain ⟨i, rfl⟩ : ∃ i, j = i + 1 := ⟨j - 1, by omega⟩
  simp [Layout.symCpStart, List.range_succ]

@[simp] theorem Layout.symCpStart_one (l : Layout) : l.symCpStart 1 = 0 := rfl

/-- The useful part of each interior symbol and of the last one starts after one long prefix and the symbols before it. -/
theorem Layout.symUsefulStart_interior (l : Layout) (j : Nat) (h2 : 2 ≤ j) (h8 : j ≤ 8) :
    l.symUsefulStart j = (j - 1) * l.n + l.cpLong + (j - 1) * l.cpShort := by
  have : j = 2 ∨ j = 3 ∨ j = 4 ∨ j = 5 ∨ j = 6 ∨ j = 7 ∨ j = 8 := by omega
  rcases this with rfl | rfl | rfl | rfl | rfl | rfl | rfl <;>
    simp [Layout.symUsefulStart, Layout.symCpStart, Layout.cp, List.range_succ] <;> ring

theorem Layout.symUsefulStart_one (l : Layout) : l.symUsefulStart 1 = l.cpLong := by
  simp [Layout.symUsefulStart, Layout.cp]

theorem Layout.symUsefulStart_nine (l : Layout) :
    l.symUsefulStart 9 = 8 * l.n + 2 * l.cpLong + 7 * l.cpShort := by
  simp [Layout.symUsefulStart, Layout.symCpStart, Layout.cp, List.range_succ]; ring

/-- Every symbol's useful part lies in the frame (44 R220: "the nine symbols use the frame exactly"). -/
theorem Layout.useful_in_frame (l : Layout) (j : Nat) (h1 : 1 ≤ j) (h9 : j ≤ 9) :
    l.symUsefulStart j + l.n ≤ 9 * l.n + 2 * l.cpLong + 7 * l.cpShort := by
  rcases Nat.lt_or_ge j 2 with h | h
  · have : j = 1 := by omega
    subst this; rw [Layout.symUsefulStart_one]; omega
  · rcases Nat.lt_or_ge j 9 with h' | h'
    · rw [Layout.symUsefulStart_interior l j h (by omega)]
      have hn : (j - 1) * l.n ≤ 7 * l.n := Nat.mul_le_mul_right _ (by omega)
      have hc : (j - 1) * l.cpShort ≤ 7 * l.cpShort := Nat.mul_le_mul_right _ (by omega)
      omega
    · have : j = 9 := by omega
      subst this; rw [Layout.symUsefulStart_nine]; omega

theorem zcRootOfSymbol_some {p root : Nat} (h : zcRootOfSymbol p = some root) :
    (p = 4 ∧ root = 600) ∨ (p = 6 ∧ root = 147) := by
  unfold zcRootOfSymbol at h
  split at h <;> simp_all

/-- Both windows of `CFO_ESTIMATE` lie in the frame (43 R204). -/
theorem Layout.prefix_in_frame (l : Layout) (p : Nat) (hp : p = 4 ∨ p = 6) :
    l.symCpStart p + l.n + l.cpShort ≤ 9 * l.n + 2 * l.cpLong + 7 * l.cpShort := by
  rcases hp with rfl | rfl
  · rw [Layout.symCpStart_four]; omega
  · rw [Layout.symCpStart_six]; omega

/-! ### The data-carrier bins (40 R140) -/

@[simp] theorem carrierIndices_length (n : Nat) : (carrierIndices n).length = 600 := by simp [carrierIndices]

theorem carrierIndices_lt {n : Nat} (h : 1024 ≤ n) : ∀ i ∈ carrierIndices n, i < n := by
  intro i hi
  simp only [carrierIndices, List.mem_map, List.mem_range] at hi
  obtain ⟨j, hj, rfl⟩ := hi
  split <;> omega

theorem carrierIndices_getElem? (n i : Nat) (h : i < 600) :
    (carrierIndices n)[i]? = some (if i < 300 then n / 2 - 300 + i else n / 2 - 299 + i) := by
  simp [carrierIndices, h]

end Sys2Proof.Machine
end

