-- ==== Sys2Proof/Laws/Detector.lean ====
section
/-!
SUPPORT. What one sample and one block can do to the burst detector (spec 42_burst_detector_fsm R182, R183).
-/

namespace Sys2Proof.Machine

open Sys2Proof

/-- The invariant of 10 R28 on a detector. -/
def Detector.Ok (burstLen : Nat) (d : Detector) : Prop :=
  match d.fsm with
  | .waiting => d.buf = []
  | .collecting _ => 1 ≤ d.buf.length ∧ d.buf.length < burstLen

theorem Detector.idle_ok (burstLen : Nat) : Detector.idle.Ok burstLen := rfl

theorem Detector.flush_collecting (burstLen : Nat) (start : U64) (buf : List C32) :
    Detector.flush burstLen ⟨.collecting start, buf⟩ =
      if buf.length = burstLen then (.idle, some ⟨buf, start⟩) else (⟨.collecting start, buf⟩, none) := rfl

/-- Everything one sample step can do (42 R183, row by row, the degenerate row of `BURST_LEN = 1` included). -/
theorem Detector.sample_cases (burstLen : Nat) (thr : F32) (pos : U64) (x : C32) (score : F32) (d : Detector) :
    (d.fsm = .waiting ∧ f32Gt score thr = false ∧ d.sample burstLen thr pos x score = (d, none)) ∨
    (d.fsm = .waiting ∧ f32Gt score thr = true ∧ burstLen ≠ 1 ∧
      d.sample burstLen thr pos x score = (⟨.collecting pos, [x]⟩, none)) ∨
    (d.fsm = .waiting ∧ f32Gt score thr = true ∧ burstLen = 1 ∧
      d.sample burstLen thr pos x score = (.idle, some ⟨[x], pos⟩)) ∨
    (∃ start, d.fsm = .collecting start ∧ d.buf.length + 1 ≠ burstLen ∧
      d.sample burstLen thr pos x score = (⟨.collecting start, d.buf ++ [x]⟩, none)) ∨
    (∃ start, d.fsm = .collecting start ∧ d.buf.length + 1 = burstLen ∧
      d.sample burstLen thr pos x score = (.idle, some ⟨d.buf ++ [x], start⟩)) := by
  obtain ⟨fsm, buf⟩ := d
  cases fsm with
  | waiting =>
    cases hg : f32Gt score thr with
    | false => left; simp [Detector.sample, hg]
    | true =>
      by_cases hb : burstLen = 1
      · subst hb; right; right; left; simp [Detector.sample, hg, Detector.flush_collecting]
      · right; left
        simp [Detector.sample, hg, Detector.flush_collecting, hb, Ne.symm hb]
  | collecting start =>
    by_cases hb : buf.length + 1 = burstLen
    · right; right; right; right
      exact ⟨start, rfl, hb, by simp [Detector.sample, Detector.flush_collecting, hb]⟩
    · right; right; right; left
      exact ⟨start, rfl, hb, by simp [Detector.sample, Detector.flush_collecting, hb]⟩

/-- One sample step keeps the invariant, and a burst it emits is full. -/
theorem Detector.sample_ok {burstLen : Nat} (hb : 1 ≤ burstLen) (thr : F32) (pos : U64) (x : C32) (score : F32)
    {d : Detector} (hd : d.Ok burstLen) :
    (d.sample burstLen thr pos x score).1.Ok burstLen ∧
      ∀ b ∈ (d.sample burstLen thr pos x score).2, b.samples.length = burstLen := by
  rcases Detector.sample_cases burstLen thr pos x score d with
    ⟨hw, -, h⟩ | ⟨hw, -, h1, h⟩ | ⟨hw, -, h1, h⟩ | ⟨st, hc, h1, h⟩ | ⟨st, hc, h1, h⟩ <;> rw [h]
  · exact ⟨hd, by simp⟩
  · refine ⟨?_, by simp⟩
    simp [Detector.Ok]; omega
  · subst h1; exact ⟨rfl, by simp⟩
  · refine ⟨?_, by simp⟩
    unfold Detector.Ok at hd
    simp only [hc] at hd
    simp [Detector.Ok]; omega
  · refine ⟨rfl, ?_⟩
    rintro b hb'
    simp only [Option.mem_def, Option.some.injEq] at hb'
    subst hb'; simp [h1]

theorem Detector.run_nil (burstLen : Nat) (thr : F32) (pos : U64) (d : Detector) :
    Detector.run burstLen thr pos [] d = (d, []) := rfl

theorem Detector.run_cons (burstLen : Nat) (thr : F32) (pos : U64) (x : C32) (sc : F32) (rest : List (C32 × F32))
    (d : Detector) :
    Detector.run burstLen thr pos ((x, sc) :: rest) d =
      ((Detector.run burstLen thr (pos + 1) rest (d.sample burstLen thr pos x sc).1).1,
       (d.sample burstLen thr pos x sc).2.toList ++
         (Detector.run burstLen thr (pos + 1) rest (d.sample burstLen thr pos x sc).1).2) := rfl

/-- A block is its samples one after another: cutting it changes nothing (42 R185). -/
theorem Detector.run_append (burstLen : Nat) (thr : F32) (pos : U64) (xs ys : List (C32 × F32)) (d : Detector) :
    Detector.run burstLen thr pos (xs ++ ys) d =
      ((Detector.run burstLen thr (pos + BitVec.ofNat 64 xs.length) ys (Detector.run burstLen thr pos xs d).1).1,
       (Detector.run burstLen thr pos xs d).2 ++
         (Detector.run burstLen thr (pos + BitVec.ofNat 64 xs.length) ys (Detector.run burstLen thr pos xs d).1).2) := by
  induction xs generalizing pos d with
  | nil => simp [Detector.run_nil]
  | cons x xs ih =>
    obtain ⟨x, sc⟩ := x
    have hpos : pos + 1 + BitVec.ofNat 64 xs.length = pos + BitVec.ofNat 64 (xs.length + 1) := by
      rw [BitVec.add_assoc]; congr 1
      apply BitVec.eq_of_toNat_eq; simp [Nat.add_comm]
    simp only [List.cons_append, Detector.run_cons, ih, List.length_cons, hpos, List.append_assoc]

/-- A block keeps the invariant, and every burst it emits is full. -/
theorem Detector.run_ok {burstLen : Nat} (hb : 1 ≤ burstLen) (thr : F32) (pos : U64) (xs : List (C32 × F32))
    {d : Detector} (hd : d.Ok burstLen) :
    (Detector.run burstLen thr pos xs d).1.Ok burstLen ∧
      ∀ b ∈ (Detector.run burstLen thr pos xs d).2, b.samples.length = burstLen := by
  induction xs generalizing pos d with
  | nil => exact ⟨hd, by simp [Detector.run_nil]⟩
  | cons x xs ih =>
    obtain ⟨x, sc⟩ := x
    obtain ⟨h1, h2⟩ := Detector.sample_ok hb thr pos x sc hd
    obtain ⟨h3, h4⟩ := ih (pos + 1) h1
    rw [Detector.run_cons]
    refine ⟨h3, ?_⟩
    intro b hb'
    rcases List.mem_append.1 hb' with h | h
    · exact h2 b (by simpa using h)
    · exact h4 b h

/-- Waiting, with no score above the threshold: nothing happens (42 R185). -/
theorem Detector.run_quiet (burstLen : Nat) (thr : F32) (pos : U64) (xs : List (C32 × F32))
    (h : ∀ p ∈ xs, f32Gt p.2 thr = false) : Detector.run burstLen thr pos xs .idle = (.idle, []) := by
  induction xs generalizing pos with
  | nil => rfl
  | cons x xs ih =>
    obtain ⟨x, c⟩ := x
    have hs : Detector.sample burstLen thr pos x c .idle = (.idle, none) := by
      have := h (x, c) (by simp)
      simp only at this
      simp [Detector.sample, Detector.idle, this]
    rw [Detector.run_cons, hs, ih _ (fun p hp => h p (by simp [hp]))]
    rfl

/-- Collecting, with too few samples to fill the buffer: every sample is stored and no score is examined (42 R183). -/
theorem Detector.run_collect (burstLen : Nat) (thr : F32) (pos start : U64) (buf : List C32) (xs : List (C32 × F32))
    (h : buf.length + xs.length < burstLen) :
    Detector.run burstLen thr pos xs ⟨.collecting start, buf⟩ = (⟨.collecting start, buf ++ xs.map (·.1)⟩, []) := by
  induction xs generalizing pos buf with
  | nil => simp [Detector.run]
  | cons x xs ih =>
    obtain ⟨x, c⟩ := x
    simp only [List.length_cons] at h
    have hs : Detector.sample burstLen thr pos x c ⟨.collecting start, buf⟩ =
        (⟨.collecting start, buf ++ [x]⟩, none) := by
      simp [Detector.sample, Detector.flush]; omega
    rw [Detector.run_cons, hs, ih _ _ (by simp; omega)]
    simp

/-- Collecting, with exactly the samples that fill the buffer: one burst, and waiting again (42 R183). -/
theorem Detector.run_fill (burstLen : Nat) (thr : F32) (pos start : U64) (buf : List C32) (xs : List (C32 × F32))
    (hne : xs ≠ []) (h : buf.length + xs.length = burstLen) :
    Detector.run burstLen thr pos xs ⟨.collecting start, buf⟩ = (.idle, [⟨buf ++ xs.map (·.1), start⟩]) := by
  obtain ⟨ys, y, rfl⟩ : ∃ ys y, xs = ys ++ [y] :=
    ⟨xs.dropLast, xs.getLast hne, (List.dropLast_append_getLast hne).symm⟩
  obtain ⟨y, c⟩ := y
  simp only [List.length_append, List.length_singleton] at h
  rw [Detector.run_append, Detector.run_collect _ _ _ _ _ _ (by omega)]
  simp [Detector.run, Detector.sample, Detector.flush, h]

/-- Waiting, with a first crossing after `quiet` and exactly the samples that fill the buffer: one burst from the crossing,
tagged with its position, and waiting again (42 R185). -/
theorem Detector.run_first_burst (burstLen : Nat) (thr : F32) (pos : U64) (quiet rest : List (C32 × F32)) (x : C32)
    (score : F32) (hq : ∀ p ∈ quiet, f32Gt p.2 thr = false) (hx : f32Gt score thr = true)
    (hlen : rest.length + 1 = burstLen) :
    Detector.run burstLen thr pos (quiet ++ (x, score) :: rest) .idle =
      (.idle, [⟨x :: rest.map (·.1), pos + BitVec.ofNat 64 quiet.length⟩]) := by
  rw [Detector.run_append, Detector.run_quiet _ _ _ _ hq, Detector.run_cons]
  have hs : Detector.sample burstLen thr (pos + BitVec.ofNat 64 quiet.length) x score .idle =
      Detector.flush burstLen ⟨.collecting (pos + BitVec.ofNat 64 quiet.length), [x]⟩ := by
    simp [Detector.sample, Detector.idle, hx]
  dsimp only
  rw [hs, Detector.flush_collecting]
  cases rest with
  | nil => simp [← hlen, Detector.run_nil]
  | cons y ys =>
    rw [if_neg (by simp only [List.length_cons, List.length_nil] at *; omega)]
    dsimp only
    rw [Detector.run_fill _ _ _ _ _ _ (List.cons_ne_nil _ _) (by simp only [List.length_cons, List.length_nil] at *; omega)]
    rfl

theorem Regs.detectorOk_iff (r : Regs) : r.DetectorOk ↔ r.detector.Ok r.burstLen := by
  unfold Regs.DetectorOk Detector.Ok Regs.collected
  cases h : r.fsm <;> simp [h]

end Sys2Proof.Machine
end

