-- ==== Sys2Proof/Laws/Correlator.lean ====
section
/-!
SUPPORT. What the score loop of the correlator does (spec 41_cross_correlator R163): how many scores, what running sums are
left, and that it does not depend on how the stream is cut.
-/

namespace Sys2Proof.Machine

open Sys2Proof

variable {S R : Type} [OfNat S 0] [OfNat R 0]

theorem xcorrLoop_nil (ν : Numerics S R) (mr : Bool) (taps : List (Cx S)) (tv : R) (w : Option (Window R)) :
    xcorrLoop ν mr taps tv [] w = ([], w) := by simp [xcorrLoop]

/-- No score while the sample after the window has not arrived (41 R166). -/
theorem xcorrLoop_short (ν : Numerics S R) (mr : Bool) (taps : List (Cx S)) (tv : R) (xs : List (Cx S))
    (w : Option (Window R)) (h : xs.length ≤ taps.length) : xcorrLoop ν mr taps tv xs w = ([], w) := by
  cases xs with
  | nil => exact xcorrLoop_nil ..
  | cons x xs =>
    have : (x :: xs).drop taps.length = [] := List.drop_eq_nil_of_le h
    unfold xcorrLoop
    rw [this]

/-- The running sums the loop starts a window with. -/
def startWindow (ν : Numerics S R) (mr : Bool) (taps : List (Cx S)) (xs : List (Cx S)) (w : Option (Window R)) :
    Window R :=
  w.getD (Window.first ν mr ((xs.take taps.length).map (widenC ν)))

/-- One turn of the loop. -/
theorem xcorrLoop_step (ν : Numerics S R) (mr : Bool) (taps : List (Cx S)) (tv : R) (x : Cx S) (xs : List (Cx S))
    (w : Option (Window R)) (a : Cx S) (h : (x :: xs)[taps.length]? = some a) :
    xcorrLoop ν mr taps tv (x :: xs) w =
      let w0 := startWindow ν mr taps (x :: xs) w
      let next := xcorrLoop ν mr taps tv xs (some (w0.slide ν (widenC ν a) (widenC ν x)))
      (windowScore ν taps tv w0 ((x :: xs).take taps.length) :: next.1, next.2) := by
  obtain ⟨hl, ha⟩ := List.getElem?_eq_some_iff.1 h
  have hd : (x :: xs).drop taps.length = a :: (x :: xs).drop (taps.length + 1) := by
    rw [List.drop_eq_getElem_cons hl, ha]
  rw [xcorrLoop, hd]
  cases w <;> rfl

/-- The number of scores (41 R163 (a), R166). -/
theorem xcorrLoop_length (ν : Numerics S R) (mr : Bool) (taps : List (Cx S)) (tv : R) (xs : List (Cx S))
    (w : Option (Window R)) : (xcorrLoop ν mr taps tv xs w).1.length = xs.length - taps.length := by
  induction xs generalizing w with
  | nil => simp [xcorrLoop_nil]
  | cons x xs ih =>
    by_cases h : (x :: xs).length ≤ taps.length
    · rw [xcorrLoop_short _ _ _ _ _ _ h]; simp at h ⊢; omega
    · have hl : taps.length < (x :: xs).length := by omega
      rw [xcorrLoop_step ν mr taps tv x xs w _ (List.getElem?_eq_getElem hl)]
      simp only [List.length_cons, ih]
      simp at hl; omega

/-- Cutting the stream changes nothing: the scores of the whole are those of the first part and then those of the rest,
started at the first window not yet scored, with the running sums left there (41 R163 (a)). -/
theorem xcorrLoop_append (ν : Numerics S R) (mr : Bool) (taps : List (Cx S)) (tv : R) (xs ys : List (Cx S))
    (w : Option (Window R)) :
    xcorrLoop ν mr taps tv (xs ++ ys) w =
      let a := xcorrLoop ν mr taps tv xs w
      let b := xcorrLoop ν mr taps tv ((xs ++ ys).drop a.1.length) a.2
      (a.1 ++ b.1, b.2) := by
  induction xs generalizing w with
  | nil => simp [xcorrLoop_nil]
  | cons x xs ih =>
    by_cases h : (x :: xs).length ≤ taps.length
    · rw [xcorrLoop_short _ _ _ _ (x :: xs) _ h]; simp
    · have hl : taps.length < (x :: xs).length := by omega
      have ha := List.getElem?_eq_getElem hl
      have hb : (x :: (xs ++ ys))[taps.length]? = some (x :: xs)[taps.length] := by
        rw [← List.cons_append, List.getElem?_append_left hl, ha]
      have htake : (x :: (xs ++ ys)).take taps.length = (x :: xs).take taps.length := by
        rw [← List.cons_append, List.take_append_of_le_length (by omega)]
      rw [xcorrLoop_step ν mr taps tv x xs w _ ha, List.cons_append,
        xcorrLoop_step ν mr taps tv x (xs ++ ys) w _ hb]
      have hw : startWindow ν mr taps (x :: (xs ++ ys)) w = startWindow ν mr taps (x :: xs) w := by
        unfold startWindow; rw [htake]
      simp only [hw, htake, ih, List.length_cons, List.drop_succ_cons, List.cons_append]

/-- The running sums after the loop: as before where no score was produced, and present once one was; the window sum exists
exactly where it did, or where the mean is removed. -/
theorem xcorrLoop_window (ν : Numerics S R) (mr : Bool) (taps : List (Cx S)) (tv : R) (xs : List (Cx S))
    (w : Option (Window R)) (hw : ∀ v ∈ w, v.sum.isSome = mr) :
    ((xcorrLoop ν mr taps tv xs w).2.isSome = (w.isSome || decide (0 < (xcorrLoop ν mr taps tv xs w).1.length))) ∧
      ∀ v ∈ (xcorrLoop ν mr taps tv xs w).2, v.sum.isSome = mr := by
  induction xs generalizing w with
  | nil => simpa [xcorrLoop_nil] using hw
  | cons x xs ih =>
    by_cases h : (x :: xs).length ≤ taps.length
    · rw [xcorrLoop_short _ _ _ _ _ _ h]; simpa using hw
    · have hl : taps.length < (x :: xs).length := by omega
      rw [xcorrLoop_step ν mr taps tv x xs w _ (List.getElem?_eq_getElem hl)]
      have hs : (startWindow ν mr taps (x :: xs) w).sum.isSome = mr := by
        unfold startWindow
        cases w with
        | none => cases mr <;> simp [Window.first]
        | some v => exact hw v rfl
      have := ih (some ((startWindow ν mr taps (x :: xs) w).slide ν (widenC ν (x :: xs)[taps.length]) (widenC ν x)))
        (by intro v hv; cases hv; simpa [Window.slide] using hs)
      refine ⟨?_, this.2⟩
      simp [this.1]

end Sys2Proof.Machine
end

