-- ==== Sys2Proof/Laws/Crc.lean ====
section
/-!
SUPPORT. The checksum register (spec 47_crc24_validator R300) over a concatenation, and its linearity bit by bit.
-/

namespace Sys2Proof.Machine

open Sys2Proof

/-- The register after a byte vector, from any start. -/
def crcFrom (r : BitVec 24) (b : List Byte) : BitVec 24 := (bytesBits b).foldl crcBit r

theorem crc24_eq (b : List Byte) : crc24 b = crcFrom 0 b := rfl

theorem crcFrom_append (r : BitVec 24) (a b : List Byte) : crcFrom r (a ++ b) = crcFrom (crcFrom r a) b := by
  simp [crcFrom, bytesBits]

theorem crcFrom_cons (r : BitVec 24) (x : Byte) (b : List Byte) :
    crcFrom r (x :: b) = crcFrom ((byteBits x).foldl crcBit r) b := by
  simp [crcFrom, bytesBits]

/-- One bit is linear in the register and the bit together. -/
theorem crcBit_xor (r q : BitVec 24) (x y : Bool) : crcBit (r ^^^ q) (x ^^ y) = crcBit r x ^^^ crcBit q y := by
  unfold crcBit
  have hm : (r ^^^ q).msb = (r.msb ^^ q.msb) := by simp [BitVec.msb, BitVec.getMsbD]
  have hs : (r ^^^ q) <<< 1 = (r <<< 1) ^^^ (q <<< 1) := BitVec.shiftLeft_xor_distrib ..
  rw [hm]
  simp only [hs]
  generalize r <<< 1 = a
  generalize q <<< 1 = b
  cases r.msb <;> cases q.msb <;> cases x <;> cases y <;> simp [BitVec.xor_assoc] <;>
    rw [BitVec.xor_comm crcPoly b]

theorem foldl_crcBit_xor (r q : BitVec 24) (xs ys : List Bool) (h : xs.length = ys.length) :
    (List.zipWith (· ^^ ·) xs ys).foldl crcBit (r ^^^ q) = xs.foldl crcBit r ^^^ ys.foldl crcBit q := by
  induction xs generalizing r q ys with
  | nil => cases ys with
    | nil => rfl
    | cons y ys => simp at h
  | cons x xs ih =>
    cases ys with
    | nil => simp at h
    | cons y ys =>
      simp only [List.zipWith_cons_cons, List.foldl_cons, crcBit_xor]
      exact ih _ _ _ (by simpa using h)

end Sys2Proof.Machine
end

