-- ==== Sys2Proof/Laws/Exact.lean ====
section
/-!
SUPPORT. Exact arithmetic (spec 00_scope R11, R12) read in Mathlib's complex numbers: each operation of the reference
instance of `NUMERICS` is the complex operation it is named after.
-/

namespace Sys2Proof.Machine

open Sys2Proof

/-- The complex number a pair of components is. -/
def toC (z : Cx ℝ) : ℂ := ⟨z.re, z.im⟩

@[simp] theorem toC_re (z : Cx ℝ) : (toC z).re = z.re := rfl
@[simp] theorem toC_im (z : Cx ℝ) : (toC z).im = z.im := rfl

theorem toC_injective : Function.Injective toC := by
  rintro ⟨a, b⟩ ⟨c, d⟩ h
  simpa [toC] using h

@[simp] theorem toC_eq_iff {z w : Cx ℝ} : toC z = toC w ↔ z = w := toC_injective.eq_iff

@[simp] theorem toC_zero : toC ⟨0, 0⟩ = 0 := rfl

@[simp] theorem toC_mul (z w : Cx ℝ) : toC (exactMul z w) = toC z * toC w := by
  apply Complex.ext <;> simp [exactMul]

@[simp] theorem toC_conj (z : Cx ℝ) : toC (exactNumerics.conj z) = (starRingEnd ℂ) (toC z) := by
  apply Complex.ext <;> simp [exactNumerics]

@[simp] theorem toC_cadd (z w : Cx ℝ) : toC (exactNumerics.cadd z w) = toC z + toC w := by
  apply Complex.ext <;> simp [exactNumerics]

@[simp] theorem toC_csub (z w : Cx ℝ) : toC (exactNumerics.csub z w) = toC z - toC w := by
  apply Complex.ext <;> simp [exactNumerics]

@[simp] theorem toC_cdivNat (z : Cx ℝ) (n : Nat) : toC (exactNumerics.cdivNat z n) = toC z / n := by
  apply Complex.ext <;> simp [exactNumerics]

theorem exactAbs2_eq (z : Cx ℝ) : exactAbs2 z = Complex.normSq (toC z) := by
  simp [exactAbs2, Complex.normSq_apply]

@[simp] theorem toC_div (z w : Cx ℝ) : toC (exactDiv z w) = toC z / toC w := by
  rw [div_eq_mul_inv, Complex.inv_def]
  apply Complex.ext <;> simp [exactDiv, exactMul, exactAbs2_eq] <;> ring

@[simp] theorem toC_cexp (t : ℝ) : toC (cexp t) = Complex.exp (t * Complex.I) := by
  rw [Complex.exp_mul_I]
  apply Complex.ext <;> simp [cexp, ← Complex.ofReal_cos, ← Complex.ofReal_sin]

@[simp] theorem toC_sum (l : List (Cx ℝ)) : toC (exactSum l) = (l.map toC).sum := by
  induction l with
  | nil => rfl
  | cons z l ih =>
    rw [List.map_cons, List.sum_cons, ← ih]
    apply Complex.ext <;> simp [exactSum]

theorem exactArg_eq (z : Cx ℝ) : exactArg z = (toC z).arg := rfl

theorem cisZero_iff (z : Cx ℝ) : exactNumerics.cisZero z = true ↔ toC z = 0 := by
  simp [exactNumerics, Complex.ext_iff]

/-- The two transforms of R12 as sums of complex exponentials. -/
theorem toC_transform (sign : ℝ) (x : List (Cx ℝ)) (k : Nat) :
    toC (exactTransform sign x k) =
      (x.mapIdx fun m z => toC z * Complex.exp ((sign * 2 * Real.pi * k * m / x.length : ℝ) * Complex.I)).sum := by
  rw [exactTransform, toC_sum]
  congr 1
  apply List.ext_getElem?
  intro i
  simp only [List.getElem?_map, List.getElem?_mapIdx, Option.map_map]
  cases x[i]? <;> simp

end Sys2Proof.Machine
end

