-- ==== Sys2Proof/Laws/PerInstr.lean ====
section
/-!
SUPPORT. The per-operation family `OpidNamesIt`: the OPID of an operation's issued form names that operation again, and its
`UNIT` field is the unit of the table of spec 30_encoding R119.
-/

namespace Sys2Proof.Laws

/-- The unit of an operation: 0 for the system operations, 1 to 9 for those of U1 to U9 (30 R118). -/
def unitOf : Op → Nat
  | .reset | .configure | .setThreshold | .processBlock | .processBurst => 0
  | .generateZc | .dataCarrierIndices | .zcFreq => 1
  | .xcorrInit | .xcorrPush => 2
  | .fsmBlock => 3
  | .syncAlign | .cfoEstimate | .cfoCorrect => 4
  | .ofdmDemod => 5
  | .chanEst | .equalize => 6
  | .qpskDemap | .bitSelect => 7
  | .softMap | .rateDematch | .turboDecode | .decode => 8
  | .crc24Check => 9

/-- The OPID of the issued form names the operation, with its unit in the upper field. -/
def OpidNamesIt.Statement (i : Instr) : Prop :=
  Op.ofOpid (encode i).opid = some i.op ∧ unitField (encode i).opid = unitOf i.op

/-- Every OPID of the table names its operation. -/
theorem ofOpid_opid (o : Op) : Op.ofOpid o.opid = some o ∧ unitField o.opid = unitOf o := by
  cases o <;> decide

theorem OpidNamesIt.reset :
    OpidNamesIt.Statement .reset := ofOpid_opid .reset

theorem OpidNamesIt.configure (sampleRate : F64) (threshold : F32) (pilotSel : Byte) :
    OpidNamesIt.Statement (.configure sampleRate threshold pilotSel) := ofOpid_opid .configure

theorem OpidNamesIt.setThreshold (t : F32) :
    OpidNamesIt.Statement (.setThreshold t) := ofOpid_opid .setThreshold

theorem OpidNamesIt.processBlock (samples : List C32) (readPos : U64) (scores : Option (List F32)) :
    OpidNamesIt.Statement (.processBlock samples readPos scores) := ofOpid_opid .processBlock

theorem OpidNamesIt.processBurst (burst : List C32) (start : U64) :
    OpidNamesIt.Statement (.processBurst burst start) := ofOpid_opid .processBurst

theorem OpidNamesIt.generateZc (fftSize root : U32) :
    OpidNamesIt.Statement (.generateZc fftSize root) := ofOpid_opid .generateZc

theorem OpidNamesIt.dataCarrierIndices (fftSize : U32) :
    OpidNamesIt.Statement (.dataCarrierIndices fftSize) := ofOpid_opid .dataCarrierIndices

theorem OpidNamesIt.zcFreq (root : U32) :
    OpidNamesIt.Statement (.zcFreq root) := ofOpid_opid .zcFreq

theorem OpidNamesIt.xcorrInit (ref : List C32) :
    OpidNamesIt.Statement (.xcorrInit ref) := ofOpid_opid .xcorrInit

theorem OpidNamesIt.xcorrPush (samples : List C32) (readPos : U64) :
    OpidNamesIt.Statement (.xcorrPush samples readPos) := ofOpid_opid .xcorrPush

theorem OpidNamesIt.fsmBlock (samples : List C32) (scores : List F32) (readPos : U64) :
    OpidNamesIt.Statement (.fsmBlock samples scores readPos) := ofOpid_opid .fsmBlock

theorem OpidNamesIt.syncAlign (burst : List C32) :
    OpidNamesIt.Statement (.syncAlign burst) := ofOpid_opid .syncAlign

theorem OpidNamesIt.cfoEstimate (frame : List C32) :
    OpidNamesIt.Statement (.cfoEstimate frame) := ofOpid_opid .cfoEstimate

theorem OpidNamesIt.cfoCorrect (frame : List C32) (w : HReal) :
    OpidNamesIt.Statement (.cfoCorrect frame w) := ofOpid_opid .cfoCorrect

theorem OpidNamesIt.ofdmDemod (frame : List C32) :
    OpidNamesIt.Statement (.ofdmDemod frame) := ofOpid_opid .ofdmDemod

theorem OpidNamesIt.chanEst (syms : List (List C32)) :
    OpidNamesIt.Statement (.chanEst syms) := ofOpid_opid .chanEst

theorem OpidNamesIt.equalize (syms : List (List C32)) (chan : List C32) :
    OpidNamesIt.Statement (.equalize syms chan) := ofOpid_opid .equalize

theorem OpidNamesIt.qpskDemap (v : C32) :
    OpidNamesIt.Statement (.qpskDemap v) := ofOpid_opid .qpskDemap

theorem OpidNamesIt.bitSelect (bits9 : List (List Bool)) :
    OpidNamesIt.Statement (.bitSelect bits9) := ofOpid_opid .bitSelect

theorem OpidNamesIt.softMap (bits : List Byte) :
    OpidNamesIt.Statement (.softMap bits) := ofOpid_opid .softMap

theorem OpidNamesIt.rateDematch (soft : List S8) :
    OpidNamesIt.Statement (.rateDematch soft) := ofOpid_opid .rateDematch

theorem OpidNamesIt.turboDecode (d0 d1 : Option (List Int)) (d2 : List (List Int)) :
    OpidNamesIt.Statement (.turboDecode d0 d1 d2) := ofOpid_opid .turboDecode

theorem OpidNamesIt.decode (bits : List Byte) :
    OpidNamesIt.Statement (.decode bits) := ofOpid_opid .decode

theorem OpidNamesIt.crc24Check (block : List Byte) :
    OpidNamesIt.Statement (.crc24Check block) := ofOpid_opid .crc24Check

end Sys2Proof.Laws
end

