-- ==== Sys2Proof/Laws/RateMatch.lean ====
section
/-!
SUPPORT. The circular buffer of the rate matching (spec 46_turbo_decoder R262 to R266): the sub-block permutations and
their inverses, the one position that holds each element of each stream, and what a dematched element is.
-/

namespace Sys2Proof.Machine

open Sys2Proof

/-! ### The sub-block permutations are permutations (46 R263) -/

/-- The inverse of `perm01`: the column pattern is its own inverse. -/
def invPerm01 (y : Nat) : Nat := 45 * columnPattern.getD (y % 32) 0 + y / 32

/-- The inverse of `perm2`. -/
def invPerm2 (y : Nat) : Nat := invPerm01 ((y + 1439) % 1440)

theorem perm01_inverse :
    ∀ k, k < 1440 → perm01 k < 1440 ∧ invPerm01 k < 1440 ∧ invPerm01 (perm01 k) = k ∧ perm01 (invPerm01 k) = k := by
  decide +kernel

theorem perm2_inverse (k : Nat) (h : k < 1440) :
    perm2 k < 1440 ∧ invPerm2 k < 1440 ∧ invPerm2 (perm2 k) = k ∧ perm2 (invPerm2 k) = k := by
  obtain ⟨h1, -, h3, -⟩ := perm01_inverse k h
  obtain ⟨-, g2, -, g4⟩ := perm01_inverse ((k + 1439) % 1440) (Nat.mod_lt _ (by norm_num))
  refine ⟨Nat.mod_lt _ (by norm_num), g2, ?_, ?_⟩
  · have : (perm2 k + 1439) % 1440 = perm01 k := by unfold perm2; omega
    rw [invPerm2, this, h3]
  · rw [perm2, invPerm2, g4]; omega

/-! ### Where each element stands (46 R264) -/

/-- The position of the circular buffer that holds element `i` of stream `σ`. -/
def bufferPosition (σ i : Nat) : Nat :=
  match σ with
  | 0 => invPerm01 (i + 28)
  | 1 => 1440 + 2 * invPerm01 (i + 28)
  | _ => 1440 + 2 * invPerm2 (i + 28) + 1

theorem paddedSource_zero {p : Nat} (h : p < 1440) : paddedSource p = (0, perm01 p) := by simp [paddedSource, h]

theorem paddedSource_one (m : Nat) : paddedSource (1440 + 2 * m) = (1, perm01 m) := by
  have h1 : ¬1440 + 2 * m < 1440 := by omega
  have h2 : (1440 + 2 * m - 1440) % 2 = 0 := by omega
  have h3 : (1440 + 2 * m - 1440) / 2 = m := by omega
  simp only [paddedSource, if_neg h1, if_pos h2, h3]

theorem paddedSource_two (m : Nat) : paddedSource (1440 + 2 * m + 1) = (2, perm2 m) := by
  have h1 : ¬1440 + 2 * m + 1 < 1440 := by omega
  have h2 : ¬(1440 + 2 * m + 1 - 1440) % 2 = 0 := by omega
  have h3 : (1440 + 2 * m + 1 - 1440) / 2 = m := by omega
  simp only [paddedSource, if_neg h1, if_neg h2, h3]

/-- Every element of every stream stands at its position, which is not a `NULL`. -/
theorem source_bufferPosition {σ i : Nat} (hσ : σ < 3) (hi : i < 1412) :
    bufferPosition σ i < 4320 ∧ isNull (bufferPosition σ i) = false ∧ source (bufferPosition σ i) = (σ, i) := by
  obtain ⟨-, h1, -, h2⟩ := perm01_inverse (i + 28) (by omega)
  obtain ⟨-, g1, -, g2⟩ := perm2_inverse (i + 28) (by omega)
  have hσ' : σ = 0 ∨ σ = 1 ∨ σ = 2 := by omega
  rcases hσ' with rfl | rfl | rfl
  · have hp := paddedSource_zero h1
    rw [h2] at hp
    refine ⟨by simp only [bufferPosition]; omega, ?_, ?_⟩ <;> simp [bufferPosition, isNull, source, hp]
  · have hp := paddedSource_one (invPerm01 (i + 28))
    rw [h2] at hp
    refine ⟨by simp only [bufferPosition]; omega, ?_, ?_⟩ <;> simp [bufferPosition, isNull, source, hp]
  · have hp := paddedSource_two (invPerm2 (i + 28))
    rw [g2] at hp
    refine ⟨by simp only [bufferPosition]; omega, ?_, ?_⟩ <;> simp [bufferPosition, isNull, source, hp]

/-- Every position of the buffer that is not a `NULL` is the position of the element it holds. -/
theorem bufferPosition_source {p : Nat} (hp : p < 4320) (hn : isNull p = false) :
    (source p).1 < 3 ∧ (source p).2 < 1412 ∧ bufferPosition (source p).1 (source p).2 = p := by
  simp only [isNull, decide_eq_false_iff_not, not_lt] at hn
  by_cases h0 : p < 1440
  · obtain ⟨h1, -, h2, -⟩ := perm01_inverse p h0
    simp only [source, paddedSource_zero h0] at hn ⊢
    refine ⟨by omega, by omega, ?_⟩
    simp only [bufferPosition, Nat.sub_add_cancel hn, h2]
  · rcases Nat.even_or_odd' (p - 1440) with ⟨m, hm | hm⟩
    · obtain rfl : p = 1440 + 2 * m := by omega
      obtain ⟨h1, -, h2, -⟩ := perm01_inverse m (by omega)
      simp only [source, paddedSource_one] at hn ⊢
      refine ⟨by omega, by omega, ?_⟩
      simp only [bufferPosition, Nat.sub_add_cancel hn, h2]
    · obtain rfl : p = 1440 + 2 * m + 1 := by omega
      obtain ⟨h1, -, h2, -⟩ := perm2_inverse m (by omega)
      simp only [source, paddedSource_two] at hn ⊢
      refine ⟨by omega, by omega, ?_⟩
      simp only [bufferPosition, Nat.sub_add_cancel hn, h2]

/-! ### The walk and the selection (46 R264) -/

theorem mem_walkOnce {p : Nat} : p ∈ walkOnce ↔ p < 4320 ∧ isNull p = false := by
  simp only [walkOnce, List.mem_filter, List.mem_map, List.mem_range, Bool.not_eq_true']
  constructor
  · rintro ⟨⟨j, hj, rfl⟩, h⟩
    exact ⟨Nat.mod_lt _ (by norm_num), h⟩
  · rintro ⟨hp, h⟩
    refine ⟨⟨(p + 4230) % 4320, Nat.mod_lt _ (by norm_num), ?_⟩, h⟩
    omega

theorem walkOnce_nodup : walkOnce.Nodup := by
  unfold walkOnce
  refine List.Nodup.filter _ (List.Nodup.map_on ?_ List.nodup_range)
  intro a ha b hb hab
  simp only [List.mem_range] at ha hb
  omega

theorem walkOnce_length : walkOnce.length = 4236 := by decide +kernel

theorem selection_eq : selection = walkOnce ++ walkOnce.take 2964 := by
  unfold selection
  rw [List.take_append, walkOnce_length, List.take_of_length_le (by rw [walkOnce_length]; norm_num)]

theorem selection_length : selection.length = 7200 := by
  rw [selection_eq, List.length_append, List.length_take, walkOnce_length]; rfl

theorem mem_selection {p : Nat} : p ∈ selection ↔ p < 4320 ∧ isNull p = false := by
  rw [selection_eq, List.mem_append, mem_walkOnce]
  exact ⟨fun h => h.elim id fun h => mem_walkOnce.1 (List.mem_of_mem_take h), .inl⟩

/-- Every position that is not a `NULL` is selected once or twice (46 R264). -/
theorem count_selection {p : Nat} (hp : p < 4320) (hn : isNull p = false) :
    selection.count p = 1 ∨ selection.count p = 2 := by
  rw [selection_eq, List.count_append, List.count_eq_one_of_mem walkOnce_nodup (mem_walkOnce.2 ⟨hp, hn⟩)]
  have : (walkOnce.take 2964).count p ≤ 1 :=
    List.nodup_iff_count_le_one.1 (walkOnce_nodup.sublist (List.take_sublist _ _)) p
  omega

/-! ### RATE_DEMATCH (46 R265) -/

theorem Streams.put_get {α : Type} (d : Streams α) (σ i τ : Nat) (v : α) (hσ : σ < 3) (hτ : τ < 3) :
    Streams.get (Streams.put d σ i v) τ = if σ = τ then (Streams.get d τ).set i v else Streams.get d τ := by
  have h1 : σ = 0 ∨ σ = 1 ∨ σ = 2 := by omega
  have h2 : τ = 0 ∨ τ = 1 ∨ τ = 2 := by omega
  rcases h1 with rfl | rfl | rfl <;> rcases h2 with rfl | rfl | rfl <;> simp [Streams.put, Streams.get]

/-- The writes of a list of distinct positions, none of them `NULL`: every stream keeps its length, and the element at a
position of the list takes the position's value. -/
theorem putAll_get (acc : List Int) (ps : List Nat) (hps : ∀ p ∈ ps, p < 4320 ∧ isNull p = false) (d : Streams Int)
    (hd : ∀ σ, σ < 3 → (Streams.get d σ).length = 1412) (σ i : Nat) (hσ : σ < 3) (hi : i < 1412) :
    let d' := ps.foldl (fun d p => Streams.put d (source p).1 (source p).2 (acc.getD p 0)) d
    (Streams.get d' σ).length = 1412 ∧
      (Streams.get d' σ)[i]? =
        if bufferPosition σ i ∈ ps then some (acc.getD (bufferPosition σ i) 0) else (Streams.get d σ)[i]? := by
  induction ps generalizing d with
  | nil => exact ⟨hd σ hσ, by simp⟩
  | cons p ps ih =>
    obtain ⟨hp, hn⟩ := hps p (by simp)
    obtain ⟨h1, h2, h3⟩ := bufferPosition_source hp hn
    have hd' : ∀ τ, τ < 3 → (Streams.get (Streams.put d (source p).1 (source p).2 (acc.getD p 0)) τ).length = 1412 := by
      intro τ hτ
      rw [Streams.put_get _ _ _ _ _ h1 hτ]
      split <;> simp [hd τ hτ]
    obtain ⟨g1, g2⟩ := ih (fun q hq => hps q (by simp [hq])) _ hd'
    refine ⟨g1, ?_⟩
    rw [List.foldl_cons, g2, Streams.put_get _ _ _ _ _ h1 hσ]
    by_cases hm : bufferPosition σ i ∈ ps
    · rw [if_pos hm, if_pos (List.mem_cons_of_mem p hm)]
    · by_cases he : bufferPosition σ i = p
      · have hs := (source_bufferPosition hσ hi).2.2
        rw [he] at hs
        have h1' : (source p).1 = σ := by rw [hs]
        have h2' : (source p).2 = i := by rw [hs]
        have hmem : bufferPosition σ i ∈ p :: ps := by rw [he]; exact List.mem_cons_self
        rw [if_neg hm, if_pos h1', if_pos hmem, h2', List.getElem?_set_self (by rw [hd σ hσ]; exact hi), he]
      · have hmem : bufferPosition σ i ∉ p :: ps := by
          rw [List.mem_cons]; exact fun h => h.elim he hm
        rw [if_neg hm, if_neg hmem]
        by_cases hst : (source p).1 = σ
        · have hne : (source p).2 ≠ i := by
            intro hi'
            exact he (by rw [← h3, hst, hi'])
          rw [if_pos hst, List.getElem?_set_ne hne]
        · rw [if_neg hst]

/-- Element `i` of stream `σ` is what stands at its position of `ACC`. -/
theorem streamsOfAcc_get (acc : List Int) {σ i : Nat} (hσ : σ < 3) (hi : i < 1412) :
    (Streams.get (streamsOfAcc acc) σ).length = 1412 ∧
      (Streams.get (streamsOfAcc acc) σ)[i]? = some (acc.getD (bufferPosition σ i) 0) := by
  obtain ⟨h1, h2⟩ := putAll_get acc ((List.range 4320).filter fun p => !isNull p)
    (by intro p hp; simpa using hp)
    ⟨List.replicate 1412 0, List.replicate 1412 0, List.replicate 1412 0⟩
    (by
      intro τ hτ
      have : τ = 0 ∨ τ = 1 ∨ τ = 2 := by omega
      rcases this with rfl | rfl | rfl <;> exact List.length_replicate)
    σ i hσ hi
  refine ⟨h1, ?_⟩
  rw [streamsOfAcc, h2, if_pos]
  obtain ⟨g1, g2, -⟩ := source_bufferPosition hσ hi
  simp [g1, g2]

theorem dematchBits_length (e : List Bool) {σ : Nat} (hσ : σ < 3) : (Streams.get (dematchBits e) σ).length = 1412 := by
  rw [dematchBits]
  exact (streamsOfAcc_get _ hσ (show 0 < 1412 by norm_num)).1

/-- A position of `ACC` holds the sum of the soft values whose selected position it is. -/
theorem dematchAcc_getD (soft : List S8) {p : Nat} (hp : p < 4320) :
    (dematchAcc soft).getD p 0 =
      (((selection.zip (soft.map BitVec.toInt)).filter fun kv => kv.1 == p).map (·.2)).sum := by
  rw [dematchAcc, List.getD_eq_getElem?_getD, scatterAdd_getElem?, List.getElem?_replicate_of_lt hp]
  simp

end Sys2Proof.Machine
end

