-- ==== Sys2Proof/Laws/Rounding.lean ====
section
/-!
SUPPORT. The rounding of an `f64` to the nearest `f32` (spec 40_zc_sequence_generator R143), in units of `2^-1074`: the two
candidates stand on either side of the value, magnitudes grow with their patterns, and what `roundNearest` can answer.
-/

namespace Sys2Proof.Machine

open Sys2Proof

/-- The magnitude of the pattern with exponent part `e` and significand `t`, hidden bit included. -/
theorem f32Units_of_parts (e t : Nat) (h : 2 ^ 23 ≤ t ∨ e = 0) (ht : t ≤ 2 ^ 24) :
    f32Units (e * 2 ^ 23 + t) = t * 2 ^ e * 2 ^ 925 := by
  unfold f32Units
  dsimp only
  congr 1
  rcases Nat.lt_or_ge t (2 ^ 23) with hlt | hge
  · obtain rfl : e = 0 := by omega
    rw [show 0 * 2 ^ 23 + t = t by omega, Nat.div_eq_of_lt hlt, Nat.mod_eq_of_lt hlt, if_pos rfl, pow_zero, Nat.mul_one]
  · rcases Nat.lt_or_ge t (2 ^ 24) with hlt | hge'
    · rw [show (e * 2 ^ 23 + t) / 2 ^ 23 = e + 1 by omega, show (e * 2 ^ 23 + t) % 2 ^ 23 = t - 2 ^ 23 by omega,
        if_neg (by omega), Nat.add_sub_cancel, show 2 ^ 23 + (t - 2 ^ 23) = t by omega]
    · obtain rfl : t = 2 ^ 24 := by omega
      rw [show (e * 2 ^ 23 + 2 ^ 24) / 2 ^ 23 = e + 2 by omega, show (e * 2 ^ 23 + 2 ^ 24) % 2 ^ 23 = 0 by omega,
        if_neg (by omega), show e + 2 - 1 = e + 1 by omega]
      ring

/-- Magnitudes grow with their patterns. -/
theorem f32Units_lt_succ (p : Nat) : f32Units p < f32Units (p + 1) := by
  have hpos : 0 < 2 ^ 925 := Nat.two_pow_pos 925
  rcases Nat.lt_or_ge p (2 ^ 23) with h | h
  · have h0 := f32Units_of_parts 0 p (.inr rfl) (by omega)
    have h1 := f32Units_of_parts 0 (p + 1) (.inr rfl) (by omega)
    rw [Nat.zero_mul, Nat.zero_add] at h0 h1
    rw [h0, h1, pow_zero, Nat.mul_one, Nat.mul_one]
    exact Nat.mul_lt_mul_of_pos_right (Nat.lt_succ_self p) hpos
  · have hp : p = (p / 2 ^ 23 - 1) * 2 ^ 23 + (2 ^ 23 + p % 2 ^ 23) := by omega
    have ht : p % 2 ^ 23 < 2 ^ 23 := Nat.mod_lt _ (by norm_num)
    generalize p / 2 ^ 23 - 1 = e at hp
    generalize p % 2 ^ 23 = f at hp ht
    subst hp
    rw [Nat.add_assoc (e * 2 ^ 23), f32Units_of_parts e _ (.inl (by omega)) (by omega),
      f32Units_of_parts e _ (.inl (by omega)) (by omega)]
    exact Nat.mul_lt_mul_of_pos_right (Nat.mul_lt_mul_of_pos_right (Nat.lt_succ_self _) (Nat.two_pow_pos e)) hpos

theorem f32Units_strictMono : StrictMono f32Units := strictMono_nat_of_lt_succ f32Units_lt_succ

/-- The two candidates of a rounding stand on either side of the value. -/
theorem f32Below_spec (m : Nat) : f32Units (f32Below m) ≤ m ∧ m < f32Units (f32Below m + 1) := by
  have hm : m / 2 ^ 925 * 2 ^ 925 ≤ m := Nat.div_mul_le_self _ _
  have hm' : m < (m / 2 ^ 925 + 1) * 2 ^ 925 := Nat.lt_mul_of_div_lt (Nat.lt_succ_self _) (Nat.two_pow_pos 925)
  unfold f32Below
  dsimp only
  generalize m / 2 ^ 925 = q at hm hm'
  have hq : q / 2 ^ (q.log2 - 23) < 2 ^ 24 ∧ (2 ^ 23 ≤ q / 2 ^ (q.log2 - 23) ∨ q.log2 - 23 = 0) := by
    rcases Nat.eq_zero_or_pos q with rfl | hpos
    · exact ⟨by norm_num, .inr rfl⟩
    · have h1 : 2 ^ q.log2 ≤ q := Nat.log2_self_le (by omega)
      have h2 : q < 2 ^ (q.log2 + 1) := Nat.lt_log2_self
      refine ⟨?_, ?_⟩
      · rw [Nat.div_lt_iff_lt_mul (Nat.two_pow_pos _), ← pow_add]
        exact lt_of_lt_of_le h2 (Nat.pow_le_pow_right (by norm_num) (by omega))
      · rcases Nat.lt_or_ge q.log2 24 with h | h
        · exact .inr (by omega)
        · left
          rw [Nat.le_div_iff_mul_le (Nat.two_pow_pos _), ← pow_add, show 23 + (q.log2 - 23) = q.log2 by omega]
          exact h1
  generalize q.log2 - 23 = e at hq
  have hd : q / 2 ^ e * 2 ^ e ≤ q := Nat.div_mul_le_self _ _
  have hd' : q < (q / 2 ^ e + 1) * 2 ^ e := Nat.lt_mul_of_div_lt (Nat.lt_succ_self _) (Nat.two_pow_pos e)
  generalize q / 2 ^ e = t at hq hd hd'
  obtain ⟨hlt, hge⟩ := hq
  rw [Nat.add_assoc, f32Units_of_parts e t hge hlt.le, f32Units_of_parts e (t + 1) (by omega) (by omega)]
  exact ⟨le_trans (Nat.mul_le_mul_right _ hd) hm, lt_of_lt_of_le hm' (Nat.mul_le_mul_right _ hd')⟩

/-- Everything `roundNearest` can answer for a value within the range of the finite `f32` values: one of the two candidates,
the upper one only if it is at least as near, and the lower one only if that is. -/
theorem roundNearest_cases (free : F64 → F32) (x : F64) (hx : x.toNat / 2 ^ 52 % 2 ^ 11 ≠ 2047)
    (hm : f64Units x ≤ f32Units 0x7F7FFFFF) :
    ∃ p : Nat, p ≤ 0x7F7FFFFF ∧ roundNearest free x = f32Signed (x.toNat / 2 ^ 63) p ∧
      ((p = f32Below (f64Units x) ∧ f64Units x - f32Units p ≤ f32Units (p + 1) - f64Units x) ∨
        (p = f32Below (f64Units x) + 1 ∧ f32Units p - f64Units x ≤ f64Units x - f32Units (f32Below (f64Units x)))) := by
  obtain ⟨h1, h2⟩ := f32Below_spec (f64Units x)
  have hle : f32Below (f64Units x) ≤ 0x7F7FFFFF := f32Units_strictMono.le_iff_le.1 (le_trans h1 hm)
  have hup : f32Units (f32Below (f64Units x)) < f64Units x → f32Below (f64Units x) + 1 ≤ 0x7F7FFFFF := fun h =>
    Nat.succ_le_of_lt (f32Units_strictMono.lt_iff_lt.1 (lt_of_lt_of_le h hm))
  have hcond : ¬(x.toNat / 2 ^ 52 % 2 ^ 11 = 2047 ∨ f32Units 0x7F7FFFFF < f64Units x) := by
    rintro (h | h)
    · exact hx h
    · exact absurd h (Nat.not_lt.2 hm)
  unfold roundNearest
  dsimp only
  rw [if_neg hcond]
  generalize f32Below (f64Units x) = p at *
  generalize f64Units x = m at *
  have down : m - f32Units p ≤ f32Units (p + 1) - m → ∃ p', p' ≤ 0x7F7FFFFF ∧
      f32Signed (x.toNat / 2 ^ 63) p = f32Signed (x.toNat / 2 ^ 63) p' ∧
      ((p' = p ∧ m - f32Units p' ≤ f32Units (p' + 1) - m) ∨ (p' = p + 1 ∧ f32Units p' - m ≤ m - f32Units p)) :=
    fun h => ⟨p, hle, rfl, .inl ⟨rfl, h⟩⟩
  have up : f32Units (p + 1) - m ≤ m - f32Units p → ∃ p', p' ≤ 0x7F7FFFFF ∧
      f32Signed (x.toNat / 2 ^ 63) (p + 1) = f32Signed (x.toNat / 2 ^ 63) p' ∧
      ((p' = p ∧ m - f32Units p' ≤ f32Units (p' + 1) - m) ∨ (p' = p + 1 ∧ f32Units p' - m ≤ m - f32Units p)) :=
    fun h => ⟨p + 1, hup (by omega), rfl, .inr ⟨rfl, h⟩⟩
  split_ifs with h3 h4 h5 h6
  · exact down (Nat.le_of_lt h3)
  · exact up (Nat.le_of_lt h4)
  · rcases h5 with h | h <;> rw [h]
    · exact down (Nat.le_of_not_lt h4)
    · exact up (Nat.le_of_not_lt h3)
  · exact down (Nat.le_of_not_lt h4)
  · exact up (Nat.le_of_not_lt h3)

end Sys2Proof.Machine
end

