-- ==== Sys2Proof/Laws/ZcGenerator.lean ====
section
/-!
SUPPORT. What U1's functions give, element by element (spec 40_zc_sequence_generator R140, R141, R143).
-/

namespace Sys2Proof.Machine

open Sys2Proof

theorem carrierIndices_nodup {n : Nat} (h : 600 ≤ n) : (carrierIndices n).Nodup := by
  unfold carrierIndices
  refine List.Nodup.map_on ?_ List.nodup_range
  intro a ha b hb hab
  simp only [List.mem_range] at ha hb
  split at hab <;> split at hab <;> omega

theorem mem_carrierIndices {n k : Nat} (h : 600 ≤ n) :
    k ∈ carrierIndices n ↔ (n / 2 - 300 ≤ k ∧ k < n / 2) ∨ (n / 2 + 1 ≤ k ∧ k < n / 2 + 301) := by
  simp only [carrierIndices, List.mem_map, List.mem_range]
  constructor
  · rintro ⟨a, ha, rfl⟩; split <;> omega
  · rintro (hk | hk)
    · exact ⟨k - (n / 2 - 300), by omega, by rw [if_pos (by omega)]; omega⟩
    · exact ⟨k - (n / 2 - 299), by omega, by rw [if_neg (by omega)]; omega⟩

theorem Params.zcRemoved_le (P : Params) : P.zcRemoved ≤ 600 := by unfold Params.zcRemoved; split <;> omega

theorem zcSequence_length {S R : Type} (ν : Numerics S R) (root : Nat) : (zcSequence ν root).length = 601 := by
  rw [zcSequence, List.length_map, List.length_range]

theorem zcFrequency_length {S R : Type} (ν : Numerics S R) {removed : Nat} (root : Nat) (h : removed ≤ 600) :
    (zcFrequency ν removed root).length = 600 := by
  rw [zcFrequency, List.length_eraseIdx_of_lt (by rw [zcSequence_length]; omega), zcSequence_length]

/-- Below the removed index the values keep their place; above it each moves one place down (40 R141). -/
theorem zcFrequency_getElem? {S R : Type} (ν : Numerics S R) (removed root : Nat) {i : Nat} (h : i < 600) :
    (zcFrequency ν removed root)[i]? =
      some (ν.cexpPi (-((root * (if i < removed then i else i + 1) * ((if i < removed then i else i + 1) + 1) : Nat) : Int))
        601) := by
  unfold zcFrequency zcSequence
  rw [List.getElem?_eraseIdx]
  simp only [List.getElem?_map]
  by_cases hr : i < removed
  · simp [hr, List.getElem?_range (show i < 601 by omega)]
  · simp [hr, List.getElem?_range (show i + 1 < 601 by omega)]

theorem zcSpectrum_length {R : Type} [OfNat R 0] (n : Nat) (y : List (Cx R)) : (zcSpectrum n y).length = n := by
  simp [zcSpectrum]

/-- Value `i` stands on the bin of data carrier `i` (40 R143). -/
theorem zcSpectrum_carrier {R : Type} [OfNat R 0] {n : Nat} (hn : 1024 ≤ n) {y : List (Cx R)} (hy : y.length = 600)
    {i : Nat} (hi : i < 600) : (zcSpectrum n y)[if i < 300 then n / 2 - 300 + i else n / 2 - 299 + i]? = y[i]? := by
  unfold zcSpectrum
  rw [List.getElem?_eq_getElem (show i < y.length by omega)]
  apply scatter_getElem?_of_mem
  · rw [List.map_fst_zip (by rw [hy, carrierIndices_length])]
    exact carrierIndices_nodup (by omega)
  · rw [List.mem_iff_getElem?]
    exact ⟨i, List.getElem?_zip_eq_some.2 ⟨carrierIndices_getElem? n i hi, List.getElem?_eq_getElem _⟩⟩
  · rw [List.length_replicate]; split <;> omega

/-- Every other bin is zero (40 R143). -/
theorem zcSpectrum_other {R : Type} [OfNat R 0] {n : Nat} {y : List (Cx R)} (hy : y.length = 600) {k : Nat} (hk : k < n)
    (hm : k ∉ carrierIndices n) : (zcSpectrum n y)[k]? = some Cx.zero := by
  unfold zcSpectrum
  rw [scatter_getElem?_of_not_mem, List.getElem?_replicate_of_lt hk]
  rwa [List.map_fst_zip (by rw [hy, carrierIndices_length])]

end Sys2Proof.Machine
end

