-- ==== Sys2Proof/Laws/System.lean ====
section
/-!
SUPPORT. What the stages of a burst and of a block can do on a `READY` instance whose registers satisfy the invariant
(spec 48_system_operations R324 to R326): every read lies in its buffer, and the registers left satisfy it again.
-/

namespace Sys2Proof.Machine

open Sys2Proof

theorem Regs.ConfigOk.size {P : Params} {r : Regs} (h : r.ConfigOk P) : 1024 ≤ r.fftSize := by
  obtain ⟨q, hq, he⟩ := fftSizeOk_dvd h.sizeOk
  omega

theorem Regs.ConfigOk.pilot {P : Params} {r : Regs} (h : r.ConfigOk P) :
    r.pilotSel.toNat = 4 ∨ r.pilotSel.toNat = 6 := by
  rcases zcRootOfSymbol_some h.root with ⟨h, -⟩ | ⟨h, -⟩ <;> simp [h]

theorem Regs.ConfigOk.frame {P : Params} {r : Regs} (h : r.ConfigOk P) :
    r.frameLen = 9 * r.layout.n + 2 * r.layout.cpLong + 7 * r.layout.cpShort := by
  simp [Regs.layout, h.frameLen, h.cpLong, h.cpShort, frameLenOf]

theorem Regs.ConfigOk.burst_pos {P : Params} {r : Regs} (h : r.ConfigOk P) : 1 ≤ r.burstLen := by
  have := h.size
  rw [h.burstLen, burstLenOf, frameLenOf]
  omega

/-- `CFO_ESTIMATE` reads inside a frame of the right length. -/
theorem cfoEstimate_some {S R : Type} [OfNat R 0] (ν : Numerics S R) (l : Layout) {pilot : Nat}
    (hp : pilot = 4 ∨ pilot = 6) {frame : List (Cx S)} (hf : frame.length = 9 * l.n + 2 * l.cpLong + 7 * l.cpShort) :
    let head := (frame.drop (l.symCpStart pilot)).take l.cpShort
    let tail := (frame.drop (l.symCpStart pilot + l.n)).take l.cpShort
    let d := ν.dot ((head.map fun z => ν.conj (widenC ν z)).zip (tail.map (widenC ν)))
    cfoEstimate ν l pilot frame = some (if ν.cisZero d then 0 else ν.divNat (ν.arg d) l.n) := by
  have := l.prefix_in_frame _ hp
  unfold cfoEstimate
  dsimp only
  rw [memRead_eq_some (by omega), memRead_eq_some (by omega)]

@[simp] theorem cfoCorrect_length {S R : Type} (ν : Numerics S R) (frame : List (Cx S)) (w : R) :
    (cfoCorrect ν frame w).length = frame.length := by simp [cfoCorrect]

@[simp] theorem centredSpectrum_length {S R : Type} (ν : Numerics S R) (x : List (Cx R)) :
    (centredSpectrum ν x).length = x.length := by simp [centredSpectrum]

/-- One symbol of a frame: its transform, half-swapped, at the carriers' bins. -/
theorem demodSymbol_some {S R : Type} [Inhabited R] (ν : Numerics S R) (l : Layout) {dcIdx : List Nat}
    (hd : ∀ i ∈ dcIdx, i < l.n) {frame : List (Cx S)} {j : Nat} (hf : l.symUsefulStart j + l.n ≤ frame.length) :
    let x := ((frame.drop (l.symUsefulStart j)).take l.n).map (widenC ν)
    demodSymbol ν l dcIdx frame j = some (dcIdx.map fun i => narrowC ν ((centredSpectrum ν x).getD i default)) := by
  have hx : (((frame.drop (l.symUsefulStart j)).take l.n).map (widenC ν)).length = l.n := by simp; omega
  unfold demodSymbol
  rw [memRead_eq_some hf]
  dsimp only
  rw [gather_eq_some (by rw [centredSpectrum_length, hx]; exact hd)]
  simp

theorem demodSymbols_some {S R : Type} (ν : Numerics S R) (l : Layout) (dcIdx : List Nat) (frame : List (Cx S))
    (row : Nat → List (Cx S)) (js : List Nat) (h : ∀ j ∈ js, demodSymbol ν l dcIdx frame j = some (row j)) :
    demodSymbols ν l dcIdx frame js = some (js.map row) := by
  induction js with
  | nil => rfl
  | cons j js ih =>
    simp [demodSymbols, h j (by simp), ih (fun k hk => h k (by simp [hk]))]

/-- `OFDM_DEMOD` reads inside a frame of the right length. -/
theorem ofdmDemod_some {P : Params} {r : Regs} (h : r.Inv P) (ν : Numerics F32 HReal) {frame : List C32}
    (hf : frame.length = r.frameLen) : ∃ syms, ofdmDemod ν r.layout r.dcIdx frame = some syms := by
  refine ⟨_, demodSymbols_some ν r.layout r.dcIdx frame _ _ fun j hj => demodSymbol_some ν r.layout ?_ ?_⟩
  · rw [h.reference.dcIdx]; exact carrierIndices_lt h.config.size
  · rw [hf, h.config.frame]
    have hj' : 1 ≤ j ∧ j ≤ 9 := by
      revert j; decide
    exact r.layout.useful_in_frame j hj'.1 hj'.2

/-! ### DECODE on bits -/

theorem softMapFrom_bits (n : Nat) (e : List Bool) : softMapFrom n (e.map byteOfBit) = .ok (e.map softOfBool) := by
  induction e generalizing n with
  | nil => rfl
  | cons b e ih => cases b <;> simp [softMapFrom, byteOfBit, softOfBit, ih, softOfBool]

/-- Bits never raise `E_BIT_VALUE`: the stages after the soft mapping run. -/
theorem decodeRun_bits (P : Params) {e : List Bool} (h : e.length = 7200) :
    decodeRun P (e.map byteOfBit) = .ok (decodeSoft P (e.map softOfBool)) := by
  unfold decodeRun
  rw [checkSize_ok (by simpa using h), softMap, checkSize_ok (by simpa using h), softMapFrom_bits]
  simp only [Except.map]

/-- The outcome of the stages after the soft mapping, in terms of the decoder's answer. -/
theorem decodeSoft_result (P : Params) (e : List Bool) :
    (decodeSoft P (e.map softOfBool)).result =
      if (turboDecode P (dematchBits e)).1 ≠ 0 then
        .error ⟨.sDecoderFail, .decode, .decoderStatus (turboDecode P (dematchBits e)).1⟩
      else if crc24 (turboDecode P (dematchBits e)).2 ≠ 0 then
        .error ⟨.sCrcFail, .decode, .crcResidual (crc24 (turboDecode P (dematchBits e)).2)⟩
      else .ok (turboDecode P (dematchBits e)).2 := by
  have h : streamsOfAcc (dematchAcc (e.map softOfBool)) = dematchBits e := by rw [dematchBits]
  rw [← h, decodeSoft]

theorem packBytes_length (c : List Bool) : (packBytes c).length = 176 := by
  unfold packBytes
  rw [List.length_map, List.length_range]

/-! ### PROCESS_BURST -/

/-- The stages of a burst of the right length always end with an outcome. -/
theorem Regs.burstStages_some {P : Params} {r : Regs} (h : r.Inv P) (free : Nat → C32) {burst : List C32}
    (hb : burst.length = r.burstLen) : ∃ run, r.burstStages P free burst = some run := by
  unfold Regs.burstStages
  dsimp only
  split
  · rename_i hfit
    simp only [Regs.frameFits, Bool.and_eq_true, decide_eq_true_eq] at hfit
    rw [memRead_eq_some (by omega)]
    dsimp only
    have hlen : ((burst.drop (r.syncAlign P burst).2.toNat).take r.frameLen).length = r.frameLen := by
      simp; omega
    unfold Regs.frameStages
    obtain ⟨w, hw⟩ : ∃ w, cfoEstimate P.numerics r.layout r.pilotSel.toNat
        ((burst.drop (r.syncAlign P burst).2.toNat).take r.frameLen) = some w :=
      ⟨_, cfoEstimate_some P.numerics r.layout h.config.pilot (by rw [hlen, h.config.frame])⟩
    rw [hw]
    dsimp only
    obtain ⟨syms, hs⟩ := ofdmDemod_some h P.numerics (frame := cfoCorrect P.numerics
      ((burst.drop (r.syncAlign P burst).2.toNat).take r.frameLen) w) (by rw [cfoCorrect_length, hlen])
    rw [hs]
    dsimp only
    split <;> exact ⟨_, rfl⟩
  · exact ⟨_, rfl⟩

/-- How the stages of a burst can end: a payload of 176 bytes whose CRC residual is 0, or one of the three per-burst
outcomes (60 R348, R349, R352); no size or bit error arises inside. -/
theorem Regs.burstStages_outcome {P : Params} {r : Regs} {free : Nat → C32} {burst : List C32} {run : BurstRun}
    (h : r.burstStages P free burst = some run) :
    (∃ bytes, run.outcome = .ok bytes ∧ bytes.length = 176 ∧ crc24 bytes = 0) ∨
    ∃ e, run.outcome = .error e ∧ (e.code = .eSyncRange ∨ e.code = .sDecoderFail ∨ e.code = .sCrcFail) := by
  unfold Regs.burstStages at h
  dsimp only at h
  split at h
  · split at h
    · cases h
    · unfold Regs.frameStages at h
      split at h
      · cases h
      · dsimp only at h
        split at h
        · cases h
        · rw [decodeRun_bits _ (by unfold bitSelect; rw [List.length_map, List.length_range])] at h
          generalize bitSelect P _ = cbits at h
          dsimp only at h
          rw [Option.some.injEq] at h
          have ho : run.outcome = (decodeSoft P (cbits.map softOfBool)).result := by rw [← h]
          rw [decodeSoft_result] at ho
          have hl : (turboDecode P (dematchBits cbits)).2.length = 176 := packBytes_length _
          generalize turboDecode P (dematchBits cbits) = q at ho hl
          split at ho
          · exact .inr ⟨_, ho, .inr (.inl rfl)⟩
          · split at ho
            · exact .inr ⟨_, ho, .inr (.inr rfl)⟩
            · rename_i hc
              exact .inl ⟨_, ho, hl, not_ne_iff.1 hc⟩
  · cases h
    exact .inr ⟨_, rfl, .inl rfl⟩

theorem Regs.clearTransients_of_inv {P : Params} {r : Regs} (h : r.Inv P) : r.clearTransients = r := by
  have := h.noTransient
  cases r
  simp_all [Regs.clearTransients]

/-- `PROCESS_BURST` on a `READY` instance: the end of its stages, or `E_SIZE`. -/
theorem processBurst_ready {P : Params} {r : Regs} {s : State} (hs : s.inst = .ready r) (h : r.Inv P)
    (burst : List C32) (start : U64) :
    (burst.length = r.burstLen ∧ ∃ run, r.burstStages P (fun i => Config.freeCplx (s.drawn + i)) burst = some run ∧
      processBurst P burst start s = .next (s.reportBurst r start run)) ∨
    (burst.length ≠ r.burstLen ∧
      processBurst P burst start s = .next (s.raiseAgent (sizeError .processBurst burst.length r.burstLen))) := by
  unfold processBurst
  rw [agentOp_ready hs]
  by_cases hb : burst.length = r.burstLen
  · obtain ⟨run, hr⟩ := Regs.burstStages_some h (fun i => Config.freeCplx (s.drawn + i)) hb
    exact .inl ⟨hb, run, hr, by rw [if_pos hb, hr]; rfl⟩
  · exact .inr ⟨hb, by rw [if_neg hb]⟩

/-- The report of a decoded burst. Said of any `run`, so that a proof about a particular one cites it and never reduces the
stages (the kernel would run the decoder). -/
theorem State.reportBurst_ok {s : State} {r : Regs} {start : U64} {run : BurstRun} {bytes : List Byte}
    (h : run.outcome = .ok bytes) :
    s.reportBurst r start run = { s with
      inst := .ready r.clearTransients, lastStatus := .ok,
      out := s.out ++ [.payload bytes start, .status .ok start], reply := some .done, drawn := s.drawn + run.draws } := by
  simp [State.reportBurst, h, State.withRegs, State.withInst, State.draw, State.send, State.withStatus, State.withReply]

/-- The report of a dropped burst. -/
theorem State.reportBurst_error {s : State} {r : Regs} {start : U64} {run : BurstRun} {e : Record}
    (h : run.outcome = .error e) :
    s.reportBurst r start run = { s with
      inst := .ready r.clearTransients, lastStatus := e.code, out := s.out ++ [.status e.code start],
      reply := some (.error e), drawn := s.drawn + run.draws } := by
  simp [State.reportBurst, h, State.withRegs, State.withInst, State.draw, State.send, State.withStatus, State.withReply]

/-- The report of a burst leaves the registers and the issued operations. -/
theorem State.reportBurst_frame {P : Params} {r : Regs} {s : State} (h : r.Inv P) (start : U64) (run : BurstRun) :
    (s.reportBurst r start run).inst = .ready r ∧ (s.reportBurst r start run).issued = s.issued := by
  have hc := Regs.clearTransients_of_inv h
  unfold State.reportBurst
  split <;> simp [hc]

/-- Every burst of a block is delivered, the registers and the issued operations left as they were. -/
theorem deliverBursts_ready {P : Params} {r : Regs} (h : r.Inv P) (bs : List Burst) (s : State)
    (hs : s.inst = .ready r) :
    ∃ t, deliverBursts P bs s = .next t ∧ t.inst = .ready r ∧ t.issued = s.issued := by
  induction bs generalizing s with
  | nil => exact ⟨s, rfl, hs, rfl⟩
  | cons b bs ih =>
    have hs' : (s.send (.burst b)).inst = .ready r := by simpa using hs
    unfold deliverBursts
    rcases processBurst_ready hs' h b.samples b.start with ⟨-, run, -, hp⟩ | ⟨-, hp⟩
    · obtain ⟨h1, h2⟩ := State.reportBurst_frame (s := s.send (.burst b)) h b.start run
      obtain ⟨t, h3, h4, h5⟩ := ih _ h1
      rw [hp]
      exact ⟨t, h3, h4, by rw [h5, h2]; rfl⟩
    · obtain ⟨t, h3, h4, h5⟩ := ih ((s.send (.burst b)).raiseAgent (sizeError .processBurst b.samples.length r.burstLen))
        (by simpa using hs)
      rw [hp]
      exact ⟨t, h3, h4, by rw [h5]; simp⟩

/-- `XCORR_PUSH` keeps what holds of U2's registers. -/
theorem Regs.xcorrPush_correlatorOk {P : Params} {r : Regs} (h : r.CorrelatorOk P) (x : List C32) (p : U64) :
    (r.xcorrPush P x p).1.CorrelatorOk P := by
  have hw : ∀ v ∈ r.window, v.sum.isSome = P.xcMeanRemove := by
    intro v hv
    simp only [Regs.window, Option.mem_def, Option.map_eq_some_iff] at hv
    obtain ⟨e, he, rfl⟩ := hv
    have h1 := h.energy
    have h2 := h.sum
    rw [he] at h1
    simp at h1
    simp [h2]
    intro _
    exact h1
  have hwin := xcorrLoop_window P.numerics P.xcMeanRemove r.taps r.tapsVar ((r.hist ++ x).drop r.xcNext) r.window hw
  have hlen := xcorrLoop_length P.numerics P.xcMeanRemove r.taps r.tapsVar ((r.hist ++ x).drop r.xcNext) r.window
  have hn := h.next
  have he := h.energy
  unfold Regs.xcorrPush
  dsimp only
  revert hwin hlen
  generalize xcorrLoop P.numerics P.xcMeanRemove r.taps r.tapsVar ((r.hist ++ x).drop r.xcNext) r.window = L
  intro hwin hlen
  constructor
  · intro _
    dsimp only
    by_cases h0 : r.hist = []
    · simp [Regs.xcCount, h0]
    · simp [Regs.xcCount, h0]
      exact h.position h0
  · simp only [Regs.xcCount, List.length_append, List.length_drop] at *
    omega
  · have := hwin.1
    simp [Regs.window] at this ⊢
    rw [this, he]
  · have h3 := hwin.1
    simp only [Regs.window, Option.isSome_map] at h3
    rw [he] at h3
    dsimp only
    cases hL : L.2 with
    | none =>
      rw [hL] at h3
      simp at h3 ⊢
      intro _
      obtain ⟨h3, h4⟩ := h3
      simp [h3, h4]
    | some v =>
      rw [hL] at h3
      have := hwin.2 v (by simp [hL])
      simp at h3
      simp [this]
      intro _
      omega

/-- The pairing of 48 R325 reads `T0` only where `XCORR_PUSH` has latched it. -/
theorem Regs.pairing_some {P : Params} {r : Regs} (h : r.CorrelatorOk P) (x : List C32) (p : U64) :
    ∃ f, (r.xcorrPush P x p).1.pairing P r.xcNext (r.xcorrPush P x p).2 = some f := by
  unfold Regs.pairing
  dsimp only
  split
  · exact ⟨_, rfl⟩
  · rename_i hlt
    have hne : (r.xcorrPush P x p).1.hist ≠ [] := by
      intro h0
      have hl : (r.xcorrPush P x p).2.length = ((r.hist ++ x).drop r.xcNext).length - r.taps.length :=
        xcorrLoop_length ..
      have h0' : r.hist ++ x = [] := h0
      simp [h0'] at hl
      simp [hl] at hlt
    obtain ⟨t0, ht⟩ := Option.isSome_iff_exists.1 ((Regs.xcorrPush_correlatorOk h x p).position hne)
    rw [ht]
    exact ⟨_, rfl⟩

end Sys2Proof.Machine
end

