-- ==== Sys2Proof/Tests/Slice0.lean ====
section
/-!
SUPPORT. The model's own tests. Expected results are the spec's: the vectors of 95_test_vectors.md (V..) and the worked
examples of the rules, named in each comment. The second half gives, for every statement with hypotheses, a state and
operands that meet them.
-/

namespace Sys2Proof.Tests

open Sys2Proof Sys2Proof.Machine

/- One theorem at a time: each evaluation by the kernel would otherwise hold a thread of its own. -/
set_option Elab.async false

/-! ### Well-formedness: an ill-formed operand for each check -/

/-- Eight rows instead of nine. -/
theorem test_wf_chanEst_rows : (Instr.chanEst (List.replicate 8 (List.replicate 600 Cx.zero))).wf = false := by
  decide +kernel

/-- A row of 599 carriers. -/
theorem test_wf_chanEst_cols : (Instr.chanEst (List.replicate 9 (List.replicate 599 Cx.zero))).wf = false := by
  decide +kernel

/-- A grid with no rows. -/
theorem test_wf_equalize_grid : (Instr.equalize [] (List.replicate 600 Cx.zero)).wf = false := by decide +kernel

/-- A channel estimate of 601 carriers. -/
theorem test_wf_equalize_chan :
    (Instr.equalize (List.replicate 9 (List.replicate 600 Cx.zero)) (List.replicate 601 Cx.zero)).wf = false := by
  decide +kernel

/-- Rows of 600 bits, not 1200. -/
theorem test_wf_bitSelect : (Instr.bitSelect (List.replicate 9 (List.replicate 600 true))).wf = false := by
  decide +kernel

/-! ### Decoding: every OPID of 30 R119 written out, with operand values -/

def reads (w : Issue) : Option Instr :=
  match decode w with
  | .ok i => some i
  | .error _ => none

theorem test_decode_system :
    reads ⟨0x00#8, []⟩ = some .reset ∧
    reads ⟨0x01#8, [.f64 0x416D4C0000000000, .f32 0x3F000000, .u8 4]⟩ =
      some (.configure 0x416D4C0000000000 0x3F000000 4) ∧
    reads ⟨0x02#8, [.f32 0x3F800000]⟩ = some (.setThreshold 0x3F800000) ∧
    reads ⟨0x03#8, [.c32s [⟨1, 2⟩], .u64 7, .f32s [3]]⟩ = some (.processBlock [⟨1, 2⟩] 7 (some [3])) ∧
    reads ⟨0x03#8, [.c32s [⟨1, 2⟩], .u64 7]⟩ = some (.processBlock [⟨1, 2⟩] 7 none) ∧
    reads ⟨0x04#8, [.c32s [⟨1, 2⟩], .u64 9]⟩ = some (.processBurst [⟨1, 2⟩] 9) := by decide

theorem test_decode_u1_u2_u3 :
    reads ⟨0x10#8, [.u32 1024, .u32 600]⟩ = some (.generateZc 1024 600) ∧
    reads ⟨0x11#8, [.u32 2048]⟩ = some (.dataCarrierIndices 2048) ∧
    reads ⟨0x12#8, [.u32 147]⟩ = some (.zcFreq 147) ∧
    reads ⟨0x20#8, [.c32s []]⟩ = some (.xcorrInit []) ∧
    reads ⟨0x21#8, [.c32s [], .u64 5]⟩ = some (.xcorrPush [] 5) ∧
    reads ⟨0x30#8, [.c32s [⟨1, 2⟩], .f32s [3], .u64 4]⟩ = some (.fsmBlock [⟨1, 2⟩] [3] 4) := by decide

theorem test_decode_u4_u5 :
    reads ⟨0x40#8, [.c32s []]⟩ = some (.syncAlign []) ∧
    reads ⟨0x41#8, [.c32s []]⟩ = some (.cfoEstimate []) ∧
    reads ⟨0x42#8, [.c32s [], .real 8]⟩ = some (.cfoCorrect [] 8) ∧
    reads ⟨0x50#8, [.c32s []]⟩ = some (.ofdmDemod []) := by decide

theorem test_decode_u6_u7_grids :
    decodeTableWord 8 0x60 = some (.chanEst (List.replicate 9 (List.replicate 600 Cx.zero))) ∧
    decodeTableWord 8 0x61 =
      some (.equalize (List.replicate 9 (List.replicate 600 Cx.zero)) (List.replicate 600 Cx.zero)) ∧
    decodeTableWord 8 0x71 = some (.bitSelect (List.replicate 9 (List.replicate 1200 false))) := by decide +kernel

theorem test_decode_u7_u8_u9 :
    reads ⟨0x70#8, [.cplx ⟨1, 2⟩]⟩ = some (.qpskDemap ⟨1, 2⟩) ∧
    reads ⟨0x80#8, [.u8s [1]]⟩ = some (.softMap [1]) ∧
    reads ⟨0x81#8, [.s8s [1]]⟩ = some (.rateDematch [1]) ∧
    reads ⟨0x82#8, [.intGrid [[1], [2], [3]]]⟩ = some (.turboDecode (some [1]) (some [2]) [[3]]) ∧
    reads ⟨0x82#8, [.intGrid []]⟩ = some (.turboDecode none none []) ∧
    reads ⟨0x83#8, [.u8s [1]]⟩ = some (.decode [1]) ∧
    reads ⟨0x90#8, [.u8s [1]]⟩ = some (.crc24Check [1]) := by decide

/-- 30 R121: a reserved OPID; and operand values that are not the operation's. -/
theorem test_decode_refused :
    decode ⟨0x05#8, []⟩ = .error (.reservedOpid 0x05) ∧ decode ⟨0xA0#8, []⟩ = .error (.reservedOpid 0xA0) ∧
    decode ⟨0x02#8, []⟩ = .error (.operandMismatch 0x02) ∧
    decode ⟨0x70#8, [.real 1]⟩ = .error (.operandMismatch 0x70) ∧
    decode ⟨0x60#8, [.cplxGrid []]⟩ = .error (.operandMismatch 0x60) := by
  refine ⟨rfl, rfl, rfl, rfl, ?_⟩
  decide +kernel

/-! ### Small states -/

/-- A `READY` instance at `N = 1024`, pilot 4, threshold 0.5, with empty reference buffers. -/
def blank : Regs where
  sampleRate := 0x416D4C0000000000
  fftSize := 1024
  cpLong := 80
  cpShort := 72
  frameLen := 9880
  burstLen := 9880
  pilotSel := 4
  zcRoot := 600
  threshold := 0x3F000000
  thrLatch := none
  fsm := .waiting
  burstBuf := []
  tapsVar := 0
  t0 := none
  xcNext := 0
  winEnergy := none
  winSum := none
  zcTime := []
  zcFreq := List.replicate 600 ⟨0, 0⟩
  dcIdx := Terms.dataCarriers 1024
  taps := []
  hist := []
  trans := {}

def ready (r : Regs) : State := { State.reset with inst := .ready r }

/-- The state an operation leaves, if it answers one. -/
def after (a : Answer) : Option State :=
  match a with
  | .next s => some s
  | .fault _ | .refused _ => none

def reply (a : Answer) : Option Reply := (after a).bind (·.reply)

/-- A sample told apart by its real part. -/
def smp (n : Nat) : C32 := ⟨BitVec.ofNat 32 n, 0⟩

/-- `Inhabited`'s parameters with their defaults: `RATE_TOL = 0`, `BURST_PAD = 0`, `DATA_SYMS` the reference value. -/
def plain : Params := { (default : Params) with zcRemovedRaw := 300, scoreSrc := .external }

/-! ### System operations -/

/-- V64. -/
theorem test_reset_collecting :
    (after (exec .reset (ready { blank with fsm := .collecting 102, burstBuf := [smp 2, smp 3, smp 4] }))).map
      (fun s => (s.inst, s.out, s.lastStatus)) = some (.ready blank, [], .ok) := by decide +kernel

/-- V64, not `READY`: nothing changes but the reply. -/
theorem test_reset_unconfigured : after (exec .reset State.reset) = some { State.reset with reply := some .done } := rfl

/-- V65. -/
theorem test_setThreshold :
    (after (exec (.setThreshold 0x3F666666) (ready { blank with thrLatch := some 0x3F000000 }))).map (·.inst) =
      some (.ready { blank with threshold := 0x3F666666, thrLatch := some 0x3F000000 }) := by decide +kernel

/-- P1 step 4: the error goes to the writer only. -/
theorem test_setThreshold_notReady :
    after (exec (.setThreshold 0x3F666666) { State.reset with inst := .failed .eCfgFftSize, lastStatus := .eCfgFftSize }) =
      some { State.reset with inst := .failed .eCfgFftSize, lastStatus := .eCfgFftSize,
                              reply := some (.error ⟨.eNotReady, .setThreshold, .notReady .failed⟩) } := rfl

/-- V59: 0.0, a negative rate, NaN and infinity. -/
theorem test_configure_not_positive :
    [0x0, 0xC16D4C0000000000, 0x7FF8000000000000, 0x7FF0000000000000].all (fun sr =>
      (after (exec (.configure sr 0x3F000000 4) (ready blank))).map (fun s => (s.inst, s.lastStatus, s.out)) ==
        some (.failed .eCfgSampleRate, .eCfgSampleRate, [.status .eCfgSampleRate 0])) = true := by decide +kernel

/-- The code a rate and a pilot selector fail with. -/
def cfgCode (sr : F64) (ps : Byte) : Option Code :=
  match configureCheck plain sr ps with
  | .ok _ => none
  | .error e => some e.code

/-- V58 to V62: admitted sizes, each error, the order of the checks, the overflow. -/
theorem test_configure_checks :
    configureCheck plain 0x416D4C0000000000 4 = .ok (1024, 600) ∧
    configureCheck plain 0x417D4C0000000000 6 = .ok (2048, 147) ∧
    configureCheck plain 0x428D4C0000000000 4 = .ok (2 ^ 28, 600) ∧
    cfgCode 0x416D4C0020000000 5 = some .eCfgSampleRate ∧ cfgCode 0x40BB580000000000 4 = some .eCfgSampleRate ∧
    cfgCode 0x416C9C3800000000 5 = some .eCfgFftSize ∧ cfgCode 0x415D4C0000000000 4 = some .eCfgFftSize ∧
    cfgCode 0x429D4C0000000000 5 = some .eCfgSymbolIndex ∧ cfgCode 0x429D4C0000000000 4 = some .eCfgFftSize := by
  decide +kernel

/-- V67. -/
theorem test_processBlock_notReady :
    after (exec (.processBlock [smp 1] 0 none) State.reset) =
      some { State.reset with lastStatus := .eNotReady, out := [.status .eNotReady 0],
                              reply := some (.error ⟨.eNotReady, .processBlock, .notReady .unconfigured⟩) } := rfl

/-- V68: in `EXTERNAL` mode, 5 samples with 4 scores. -/
theorem test_processBlock_size :
    (after (processBlock plain (List.replicate 5 (smp 0)) 105 (List.replicate 4 0) (ready blank))).map
      (fun s => (s.inst, s.lastStatus, s.out)) = some (.ready blank, .eSize, [.status .eSize 0]) := by decide +kernel

/-- P5 step 2. -/
theorem test_processBurst_size :
    (after (exec (.processBurst [smp 1] 7) (ready blank))).map (fun s => (s.inst, s.lastStatus, s.out, s.reply)) =
      some (.ready blank, .eSize, [.status .eSize 0], some (.error ⟨.eSize, .processBurst, .size 1 9880⟩)) := by
  decide +kernel

/-- V28: `S0 = -1, 0, 2000, 2001` with `BURST_PAD = 2000`. -/
theorem test_processBurst_range :
    [-1, 0, 2000, 2001].map (Regs.frameFits { blank with burstLen := 11880 }) = [false, true, true, false] := by decide

/-! ### U1 -/

/-- V72, V8: the size is checked first; a bad root is `ZC_FREQ`'s. -/
theorem test_generateZc_errors :
    reply (exec (.generateZc 1000 5) (ready blank)) = some (.error ⟨.eCfgFftSize, .generateZc, .fftSize 1000⟩) ∧
    reply (exec (.generateZc 1024 601) (ready blank)) = some (.error ⟨.eCfgZcRoot, .zcFreq, .zcRoot 601⟩) := by
  decide +kernel

/-- V1 and V3. -/
theorem test_dataCarrierIndices :
    [0, 299, 300, 599].map ((carrierIndices 1024).getD · 0) = [212, 511, 513, 812] ∧
    reply (exec (.dataCarrierIndices 1536) (ready blank)) =
      some (.error ⟨.eCfgFftSize, .dataCarrierIndices, .fftSize 1536⟩) := by decide +kernel

/-- A `NUMERICS` over the integers that shows what each operation is given: phases modulo `2 * 601` half turns, and the bin
number of each transform output. -/
def tracing : Numerics Int Int :=
  { (default : Numerics Int Int) with
    widen := id, narrow := id, roundOpen := id
    cexpPi := fun a b => ⟨a % (2 * b), b⟩
    dft := fun _ k => ⟨k, 0⟩
    idft := fun x m => ⟨(x.getD m ⟨0, 0⟩).re, m⟩
    cdivNat := fun z _ => z }

/-- V4: `q(1), q(2), q(3), q(299)`, then the removed centre, then `q(301)`, `q(600)`, for root 600 (phases `-2*pi*q/601`). -/
theorem test_zcFreq_phases :
    [1, 2, 3, 299, 300, 599].map (fun i => ((zcFrequency tracing 300 600).getD i ⟨0, 0⟩).re) =
      [1202 - 2 * 600, 1202 - 2 * 598, 1202 - 2 * 595, 1202 - 2 * 225, 1202 - 2 * 225, 0] := by decide +kernel

/-- V8. -/
theorem test_zcFreq_root :
    reply (exec (.zcFreq 1) (ready blank)) = some (.error ⟨.eCfgZcRoot, .zcFreq, .zcRoot 1⟩) := rfl

/-- 40 R143: after the half swap carriers 0 and 1 stand on bins `N - 300` and `N - 299`, and the bins beside them are zero. -/
theorem test_generateZc_bins :
    [0, 1, 723, 724, 725, 726].map (fun m => ((zcTimeExact tracing 1024 [⟨5, 0⟩, ⟨6, 0⟩]).getD m ⟨0, 0⟩).re) =
      [0, 0, 0, 5, 6, 0] := by decide +kernel

/-- 40 R143: 1, pi, -0.1, the least `f32` and half of it plus one unit, each to the nearest; a tie, `1 + 2^-24`, is `NUMERICS`'
among the two neighbours, and the even one where `NUMERICS` answers neither. -/
theorem test_roundNearest :
    [0x3FF0000000000000, 0x400921FB54442D18, 0xBFB999999999999A, 0x36A0000000000000, 0x3690000000000001].map
      (roundNearest fun _ => 0) = [0x3F800000, 0x40490FDB, 0xBDCCCCCD, 1, 1] ∧
    roundNearest (fun _ => 0x3F800001) 0x3FF0000010000000 = 0x3F800001 ∧
    roundNearest (fun _ => 0) 0x3FF0000010000000 = 0x3F800000 := by decide +kernel

/-! ### U2: the vectors with `W = 4`, in exact rational arithmetic -/

def rational : Numerics ℚ ℚ :=
  let mul (z w : Cx ℚ) : Cx ℚ := ⟨z.re * w.re - z.im * w.im, z.re * w.im + z.im * w.re⟩
  let abs2 (z : Cx ℚ) : ℚ := z.re * z.re + z.im * z.im
  let sum (l : List (Cx ℚ)) : Cx ℚ := ⟨(l.map (·.re)).sum, (l.map (·.im)).sum⟩
  { (default : Numerics ℚ ℚ) with
    widen := id, narrow := id, ofNat := fun n => n, isZero := fun x => x == 0, ge := fun x y => y ≤ x
    add := (· + ·), sub := (· - ·), mul := (· * ·), div := (· / ·), divNat := fun x n => x / n
    cisZero := fun z => z.re == 0 && z.im == 0
    cadd := fun z w => ⟨z.re + w.re, z.im + w.im⟩, csub := fun z w => ⟨z.re - w.re, z.im - w.im⟩
    cmul := mul, cdiv := fun z w => ⟨(mul z ⟨w.re, -w.im⟩).re / abs2 w, (mul z ⟨w.re, -w.im⟩).im / abs2 w⟩
    conj := fun z => ⟨z.re, -z.im⟩, cdivNat := fun z n => ⟨z.re / n, z.im / n⟩
    abs2 := abs2, csum := sum, energy := fun l => (l.map abs2).sum, dot := fun l => sum (l.map fun p => mul p.1 p.2) }

def ref4 : List (Cx ℚ) := [⟨1, 0⟩, ⟨0, 1⟩, ⟨-1, 0⟩, ⟨0, -1⟩]

/-- V10. -/
theorem test_xcorrInit :
    xcorrTaps rational ref4 = [⟨1, 0⟩, ⟨0, -1⟩, ⟨-1, 0⟩, ⟨0, 1⟩] ∧ xcorrTapsVar rational ref4 = 1 := by decide +kernel

/-- `XCORR_INIT` writes the taps and nothing else of the stream state. -/
theorem test_xcorrInit_keeps_stream (x : List C32) (r : Regs) (s : State) (h : s.inst = .ready r) :
    ∃ t r', exec (.xcorrInit x) s = .next t ∧ t.inst = .ready r' ∧ r'.hist = r.hist ∧ r'.taps.length = x.length :=
  ⟨_, _, directOp_ready h, rfl, rfl, by simp [Regs.xcorrInit, xcorrTaps, centred]⟩

/-- The scores of a stream over those taps. -/
def scores4 (mr : Bool) (x : List (Cx ℚ)) : List ℚ :=
  (xcorrLoop rational mr (xcorrTaps rational ref4) (xcorrTapsVar rational ref4) x none).1

/-- V11, V13, V15, V16: the running sums, a zero window, an uncorrelated one, and mean removal. -/
theorem test_xcorrPush_scores :
    scores4 false [⟨0, 0⟩, ⟨2, 0⟩, ⟨0, 2⟩, ⟨-2, 0⟩, ⟨0, -2⟩, ⟨0, 0⟩, ⟨0, 0⟩] = [3 / 4, 1, 3 / 4] ∧
    scores4 true [⟨0, 0⟩, ⟨2, 0⟩, ⟨0, 2⟩, ⟨-2, 0⟩, ⟨0, -2⟩, ⟨0, 0⟩, ⟨0, 0⟩] = [9 / 11, 1, 9 / 11] ∧
    scores4 false (List.replicate 6 ⟨0, 0⟩) = [0, 0] ∧ scores4 false (List.replicate 5 ⟨1, 0⟩) = [0] ∧
    scores4 false [⟨6, 0⟩, ⟨5, 1⟩, ⟨4, 0⟩, ⟨5, -1⟩, ⟨5, 0⟩] = [1 / 26] ∧
    scores4 true [⟨6, 0⟩, ⟨5, 1⟩, ⟨4, 0⟩, ⟨5, -1⟩, ⟨5, 0⟩] = [1] := by decide +kernel

/-! ### U3 -/

/-- V18 and V19, `BURST_LEN = 4`: a trigger, a full burst across two blocks, and the next trigger at once. -/
theorem test_fsm_two_blocks :
    let small := { blank with burstLen := 4 }
    let s1 := (after (exec (.fsmBlock [smp 0, smp 1, smp 2, smp 3, smp 4]
      [0x3DCCCCCD, 0x3F000000, 0x3F19999A, 0x3F666666, 0x3E4CCCCD] 100) (ready small))).getD State.reset
    s1.reply = some (.bursts []) ∧
    s1.inst = .ready { small with thrLatch := some 0x3F000000, fsm := .collecting 102,
                                  burstBuf := [smp 2, smp 3, smp 4] } ∧
    reply (exec (.fsmBlock [smp 10, smp 11, smp 12] [0x3F666666, 0x3F666666, 0x3DCCCCCD] 105) s1) =
      some (.bursts [⟨[smp 2, smp 3, smp 4, smp 10], 102⟩]) := by decide +kernel

/-- V23 and V24: a size error, and a position that wraps. -/
theorem test_fsm_size_and_wrap :
    reply (exec (.fsmBlock [smp 0, smp 1, smp 2] [0, 0] 0) (ready blank)) =
      some (.error ⟨.eSize, .fsmBlock, .size 2 3⟩) ∧
    (after (exec (.fsmBlock [smp 0, smp 1, smp 2] [0, 0, 0x3F666666] 0xFFFFFFFFFFFFFFFF) (ready blank))).map
      (fun s => s.register 0x0D) = some (.value 64 1) := by decide +kernel

/-- V21, row by row: (`THR_LATCH`, score, trigger). -/
theorem test_f32_comparison :
    [(0x3F000000, 0x3F000000, false), (0x3F000000, 0x3F000001, true), (0x3F000000, 0x7FC00000, false),
     (0x7FC00000, 0x3F800000, false), (0x7F800000, 0x3F800000, false), (0xBF800000, 0, true), (0xFF800000, 0, true),
     (0xFF800000, 0x7FC00000, false), (0x80000000, 0, false), (0, 1, true)].all
      (fun row : F32 × F32 × Bool => f32Gt row.2.1 row.1 == row.2.2) = true := by decide +kernel

/-! ### U4 to U6 -/

/-- V27, V26 and 43 R201: of equal peaks the first; position 0 where every value is a NaN (no comparison holds). -/
theorem test_argmax_first :
    argmaxFirst (fun x y : Nat => decide (y ≤ x)) [1, 3, 2, 3] = 1 ∧
    argmaxFirst (fun x y : Nat => decide (y ≤ x)) [0, 0, 0] = 0 ∧
    argmaxFirst (fun _ _ : Nat => false) [1, 2, 3] = 0 := by decide

/-- 30 R111: `SYNC_OFFSET` at `N = 1024` and 2048. -/
theorem test_sync_offset :
    blank.layout.syncOffset 4 = 3368 ∧ blank.layout.syncOffset 6 = 5560 ∧
    Layout.syncOffset ⟨2048, 160, 144⟩ 6 = 11120 := by decide

/-- V29: the two windows of `CFO_ESTIMATE` at `N = 1024`, shown by their first sample's index; pilot 4, then pilot 6. -/
theorem test_cfo_windows :
    [4, 6].map (fun pilot => (blank.layout.symCpStart pilot, blank.layout.symCpStart pilot + 1024)) =
      [(3296, 4320), (5488, 6512)] := by decide

/-- 43 R204, R201: an operand of the wrong length. -/
theorem test_cfo_sync_ofdm_sizes :
    reply (exec (.syncAlign [smp 1]) (ready blank)) = some (.error ⟨.eSize, .syncAlign, .size 1 9880⟩) ∧
    reply (exec (.cfoEstimate []) (ready blank)) = some (.error ⟨.eSize, .cfoEstimate, .size 0 9880⟩) ∧
    reply (exec (.cfoCorrect [] 0) (ready blank)) = some (.error ⟨.eSize, .cfoCorrect, .size 0 9880⟩) ∧
    reply (exec (.ofdmDemod [smp 1, smp 2]) (ready blank)) = some (.error ⟨.eSize, .ofdmDemod, .size 2 9880⟩) := by
  decide +kernel

/-- V34: which bin of the transform each data carrier is: -300, -1, 1 and 300, at their indices of V1. -/
theorem test_ofdm_bins :
    (demodSymbol tracing blank.layout [212, 511, 513, 812] (List.replicate 9880 ⟨0, 0⟩) 2).map
      (fun row => row.map (·.re)) = some [724, 1023, 1, 300] := by decide +kernel

/-- V35 and V36, two carriers: a gain of `2j`, and a pilot carrier that is exactly zero. -/
theorem test_chanEst_equalize :
    let row : List (Cx ℚ) := [⟨0, 2⟩, ⟨0, 0⟩]
    let data : List (Cx ℚ) := [⟨-2, 2⟩, ⟨-2, 2⟩]
    let syms := [data, data, data, row, data, data, data, data, data]
    let chan := chanEst rational [⟨1, 0⟩, ⟨1, 0⟩] 4 (fun i => ⟨99, i⟩) syms
    chan = [⟨0, -1 / 2⟩, ⟨99, 1⟩] ∧ ((equalize rational 4 syms chan).getD 1 []).head? = some ⟨1, 1⟩ ∧
    (equalize rational 4 syms chan).getD 3 [] = row := by decide +kernel

/-! ### U7 -/

/-- V37 to V39. -/
theorem test_qpsk_table :
    [((0x40000000, 0x40400000), (false, false)), ((0x40000000, 0), (true, true)), ((0x40000000, 0xC0400000), (false, true)),
     ((0, 0x40400000), (true, true)), ((0xC0000000, 0x40400000), (true, false)), ((0xC0000000, 0xC0400000), (true, true)),
     ((0x80000000, 0x3F800000), (true, true)), ((0x7FC00000, 0x3F800000), (true, true)),
     ((0x7F800000, 0x7F800000), (false, false)), ((0xFF800000, 1), (true, false)), ((1, 0x80000001), (false, true))].all
      (fun row : (F32 × F32) × Bool × Bool => qpskDemap ⟨row.1.1, row.1.2⟩ == row.2) = true := by decide +kernel

/-- V40: the order of the bits of a row, and of the rows of `DATA_SYMS`. -/
theorem test_bit_order :
    demapRow [⟨0x3F800000, 0x3F800000⟩, ⟨0x3F800000, 0xBF800000⟩, ⟨0xBF800000, 0x3F800000⟩, ⟨0xBF800000, 0xBF800000⟩] =
      [false, false, false, true, true, false, true, true] ∧
    plain.dataSyms = [2, 3, 5, 7, 8, 9] ∧
    selectedBits plain.dataSyms ((List.range 9).map fun i => [i + 1 == 5]) =
      [false, false, true, false, false, false] := by decide +kernel

/-! ### U8 -/

/-- V41, V42: the values and the least bad element. -/
theorem test_softMap :
    softMapFrom 0 [0, 1, 1, 0] = .ok [-63, 63, 63, -63] ∧
    softMapFrom 0 [0, 1, 1, 0, 0, 2, 0, 0, 0, 255] = .error ⟨.eBitValue, .softMap, .bitValue 5 2⟩ := by
  exact ⟨rfl, rfl⟩

/-- V42, V44, V52: the sizes. -/
theorem test_decoder_sizes :
    reply (exec (.softMap [2]) (ready blank)) = some (.error ⟨.eSize, .softMap, .size 1 7200⟩) ∧
    reply (exec (.rateDematch []) (ready blank)) = some (.error ⟨.eSize, .rateDematch, .size 0 7200⟩) ∧
    reply (exec (.decode [2]) (ready blank)) = some (.error ⟨.eSize, .decode, .size 1 7200⟩) ∧
    reply (exec (.turboDecode (some [1]) (some [2]) [[3]]) (ready blank)) = some (.error ⟨.eSize, .turboDecode, .size 1 1412⟩) := by
  decide +kernel

/-- 46 R273: two streams are not 3 streams of 1412 values, whatever their lengths. -/
theorem test_turboDecode_streams :
    reply (exec (.turboDecode (some (List.replicate 1412 0)) (some (List.replicate 1412 0)) []) (ready blank)) =
      some (.error ⟨.eSize, .turboDecode, .size (Config.freeNat 0) 1412⟩) := rfl

/-- V43. -/
theorem test_selection :
    [0, 1324, 4148, 7199].map (fun k => (selection.getD k 0, source (selection.getD k 0))) =
      [(91, 0, 12), (1442, 1, 4), (1, 0, 4), (3113, 2, 814)] := by decide +kernel

/-- 46 R263, R270: spot values. -/
theorem test_interleavers :
    [0, 1, 5, 45, 46].map perm01 = [0, 32, 160, 16, 48] ∧ [0, 5, 1395, 1439].map perm2 = [1, 161, 32, 0] ∧
    [0, 1, 2, 3, 4, 5, 6, 7, 1407].map turboPerm = [0, 131, 438, 921, 172, 1007, 610, 389, 45] := by decide +kernel

/-- V45 (b): parity after a single one, and the termination from state 4. -/
theorem test_constituent_encoder :
    (rscRun ⟨false, false, false⟩ (true :: List.replicate 7 false)).1 =
      [true, true, true, true, false, false, true, false] ∧
    rscTail 3 ⟨true, false, false⟩ = [(false, true), (true, false), (true, true)] := by decide

/-- 46 R273: the example of the packing. -/
theorem test_packing :
    (packBytes [false, false, false, false, false, false, false, true, true, false, true, false, true, true, false,
      false]).take 2 = [0x01, 0xAC] := by decide +kernel

/-- 46 R277: one constituent step on a three-bit trellis favours the bits it is given. -/
theorem test_siso_signs :
    (siso [10, -10, 10] [0, 0, 0] [0, 0, 0] [0, 0, 0] [0, 0, 0]).map (fun l => decide (0 < l)) = [true, false, true] := by
  decide +kernel

/-! ### U9 -/

/-- V53. -/
theorem test_crc24_values :
    crc24 [0x80] = 0x3347A4 ∧ crc24 [0x00, 0x01] = 0x864CFB ∧ crc24 [] = 0 := by decide +kernel

/-- The bytes `a .. a + n - 1`. -/
def counting (a n : Nat) : List Byte := (List.range' a n).map (BitVec.ofNat 8)

/-- V54 (the block of V46), in pieces: the register after each piece, then `B6A038`, then 0. -/
theorem test_crc24_pieces :
    crcFrom 0 (counting 0 45) = 0x7B88CB ∧ crcFrom 0x7B88CB (counting 45 45) = 0xA431FB ∧
    crcFrom 0xA431FB (counting 90 45) = 0x159076 ∧ crcFrom 0x159076 (counting 135 38) = 0xB6A038 ∧
    crcFrom 0xB6A038 [0xB6, 0xA0, 0x38] = 0 := by decide +kernel

/-- V54: the counting payload with its checksum is accepted. -/
theorem test_crc24Check :
    reply (exec (.crc24Check (counting 0 45 ++ counting 45 45 ++ counting 90 45 ++ counting 135 38 ++
      [0xB6, 0xA0, 0x38])) (ready blank)) = some (.crc true 0) := by
  have h : crc24 (counting 0 45 ++ counting 45 45 ++ counting 90 45 ++ counting 135 38 ++ [0xB6, 0xA0, 0x38]) = 0 := by
    obtain ⟨h1, h2, h3, h4, h5⟩ := test_crc24_pieces
    rw [crc24_eq]; simp only [crcFrom_append, h1, h2, h3, h4, h5]
  have hl : (counting 0 45 ++ counting 45 45 ++ counting 90 45 ++ counting 135 38 ++ [0xB6, 0xA0, 0x38]).length = 176 := by
    decide +kernel
  generalize counting 0 45 ++ counting 45 45 ++ counting 90 45 ++ counting 135 38 ++ [0xB6, 0xA0, 0x38] = blk at h hl ⊢
  simp [reply, after, exec, execCrc24Check, directOp, ready, checkSize, hl, h, State.finish, State.withReply]

/-! ### Witnesses: for each statement with hypotheses, values that meet them

`test_witness_<Statement>` meets the hypotheses of `Obligations.<Statement>` together, one conjunct for each of its clauses. -/

section Witnesses

open Sys2Proof.Terms

/-- The instance after `CONFIGURE(15.36 MHz, 0.5, 4)`, whatever its parameters. -/
def configured1024 (P : Params) : Regs := configuredRegs P 0x416D4C0000000000 0x3F000000 4 1024 600

theorem test_configured_inv (P : Params) : (configured1024 P).Inv P := by
  have hpad : 9880 + P.burstPad < 2 ^ 32 := by unfold Params.burstPad; split <;> omega
  refine ⟨⟨?_, (by decide : fftSizeOk 1024 = true), rfl, rfl, rfl, rfl, ?_, (rfl : zcRootOfSymbol 4 = some 600)⟩, ⟨?_, ?_, ?_⟩, rfl, ?_, rfl⟩
  · have hp : f64Positive 0x416D4C0000000000 = some (8246337208320000 * 2 ^ 0, 2 ^ 29) := by decide +kernel
    have ho : offRate P.rateTol (8246337208320000 * 2 ^ 0) (2 ^ 29) 1024 = false := by simp [offRate]
    have hn : nearestSize (8246337208320000 * 2 ^ 0) (2 ^ 29) = 1024 := by decide
    have hk : fftSizeOk 1024 = true := by decide
    show fftSizeOf P 0x416D4C0000000000 = .ok 1024
    simp only [fftSizeOf, hp, hn, ho, hk]
    rfl
  · show 9880 + P.burstPad < 2 ^ 32
    exact hpad
  · simp only [configured1024, configuredRegs, freshRegs, Regs.xcorrInit, zcTime, zcTimeExact, List.length_map,
      List.length_range]
  · simp only [configured1024, configuredRegs, freshRegs, Regs.xcorrInit]
    exact zcFrequency_length _ _ (Params.zcRemoved_le P)
  · simp only [configured1024, configuredRegs, freshRegs, Regs.xcorrInit]
  · exact ⟨fun h => absurd rfl h, Nat.le_refl _, rfl, by simp [configured1024, configuredRegs, freshRegs, Regs.xcorrInit]⟩

theorem test_admitted_1024 : AdmittedSize 1024 := ⟨10, by norm_num, by norm_num⟩

theorem test_not_admitted : ¬AdmittedSize 512 ∧ ¬AdmittedSize 1000 ∧ ¬AdmittedSize 1536 := by
  have h : ∀ n, fftSizeOk n = false → ¬AdmittedSize n := by
    intro n hn ha
    rw [fftSizeOk_iff.2 ha] at hn
    cases hn
  exact ⟨h _ (by decide), h _ (by decide), h _ (by decide)⟩

/-- A positive normal binary64 from its two fields. -/
theorem f64Value_normal {x : F64} (e f : ℕ) (hx : x.toNat = e * 2 ^ 52 + f) (he : 0 < e ∧ e < 2 ^ 11) (hf : f < 2 ^ 52) :
    f64Value x = (2 ^ 52 + f) * 2 ^ ((e : ℤ) - 1075) := by
  have h1 : ¬x.toNat / 2 ^ 63 = 1 := by omega
  have h2 : x.toNat / 2 ^ 52 % 2 ^ 11 = e := by omega
  have h3 : x.toNat % 2 ^ 52 = f := by omega
  simp only [f64Value, h1, h2, h3, if_false, show ¬e = 0 by omega, one_mul]

theorem test_f64_values :
    f64Value 0x416D4C0000000000 = 15360000 ∧ f64Value 0x416D4C0020000000 = 15360001 ∧
    f64Value 0x416D4FA980000000 = 15367500 ∧ f64Value 0x415D4C0000000000 = 7680000 ∧
    f64Value 0x429D4C0000000000 = 2 ^ 29 * 15000 ∧ f64Value 0 = 0 := by
  refine ⟨?_, ?_, ?_, ?_, ?_, ?_⟩
  · rw [f64Value_normal 0x416 0xD4C0000000000 (by decide) (by decide) (by decide)]; norm_num
  · rw [f64Value_normal 0x416 0xD4C0020000000 (by decide) (by decide) (by decide)]; norm_num
  · rw [f64Value_normal 0x416 0xD4FA980000000 (by decide) (by decide) (by decide)]; norm_num
  · rw [f64Value_normal 0x415 0xD4C0000000000 (by decide) (by decide) (by decide)]; norm_num
  · rw [f64Value_normal 0x429 0xD4C0000000000 (by decide) (by decide) (by decide)]; norm_num
  · simp [f64Value]

theorem test_witness_StepRunsDecoded :
    let s : State := { State.reset with issued := [encode .reset, encode .reset] }
    s.issued = encode .reset :: [encode .reset] ∧ decode (encode .reset) = .ok .reset := by decide

theorem test_witness_StepIdleOrRefused :
    State.reset.issued = [] ∧
    ({ State.reset with issued := [⟨0x05, []⟩] } : State).issued = ⟨0x05, []⟩ :: [] ∧
    decode ⟨0x05, []⟩ = .error (.reservedOpid 0x05) ∧
    ({ State.reset with issued := [⟨0x00, [.u8 0]⟩] } : State).issued = ⟨0x00, [.u8 0]⟩ :: [] ∧
    decode ⟨0x00, [.u8 0]⟩ = .error (.operandMismatch 0x00) := ⟨rfl, rfl, rfl, rfl, rfl⟩

theorem test_witness_InvKept :
    (ready (configured1024 Config.params)).Inv ∧
    step { ready (configured1024 Config.params) with issued := [encode (.qpskDemap Cx.zero)] } =
      .next { ready (configured1024 Config.params) with reply := some (.bitPair true true) } :=
  ⟨test_configured_inv _, rfl⟩

theorem test_witness_StepProgress :
    (ready (configured1024 Config.params)).Inv ∧
    ({ ready (configured1024 Config.params) with issued := [encode .reset] } : State).WellIssued := by
  refine ⟨test_configured_inv _, ?_⟩
  intro w hw
  obtain rfl : w = encode .reset := by simpa using hw
  exact ⟨_, rfl⟩

/-- Both pilots, at the least admitted size. -/
theorem test_witness_ConfigureAdmitted :
    f64Finite 0x416D4C0000000000 ∧ f64Value 0x416D4C0000000000 = 15000 * (1024 : ℕ) ∧ AdmittedSize 1024 ∧
    ((4 : Byte) = 4 ∧ (600 : ℕ) = 600) ∧ ((6 : Byte) = 6 ∧ (147 : ℕ) = 147) ∧
    frameLength 1024 + Config.params.burstPad < 2 ^ 32 := by
  refine ⟨by unfold f64Finite; decide, ?_, test_admitted_1024, ⟨rfl, rfl⟩, ⟨rfl, rfl⟩, ?_⟩
  · rw [test_f64_values.1]; norm_num
  · exact (test_configured_inv Config.params).config.burstFits

/-- With `RATE_TOL = 0`: a rate of 0.0; one hertz off, and exactly half way between two sizes; the size 512; the pilot
selector 5; the size `2^29`, whose burst does not fit; both pilots at 1024. -/
theorem test_witness_ConfigureOutcome :
    ((plain.rateTol.1 : ℚ) / plain.rateTol.2 = 0) ∧
    ¬(f64Finite 0 ∧ 0 < f64Value 0) ∧
    (f64Finite 0x416D4C0020000000 ∧ 0 < f64Value 0x416D4C0020000000 ∧
      |f64Value 0x416D4C0020000000 - 15000 * (1024 : ℕ)| ≤ 7500 ∧
      0 < |f64Value 0x416D4C0020000000 - 15000 * (1024 : ℕ)|) ∧
    (f64Finite 0x416D4FA980000000 ∧ |f64Value 0x416D4FA980000000 - 15000 * (1024 : ℕ)| = 7500) ∧
    (f64Finite 0x415D4C0000000000 ∧ |f64Value 0x415D4C0000000000 - 15000 * (512 : ℕ)| = 0 ∧ ¬AdmittedSize 512) ∧
    (f64Finite 0x416D4C0000000000 ∧ |f64Value 0x416D4C0000000000 - 15000 * (1024 : ℕ)| = 0 ∧ AdmittedSize 1024 ∧
      (5 : Byte) ≠ 4 ∧ (5 : Byte) ≠ 6 ∧ frameLength 1024 + plain.burstPad < 2 ^ 32) ∧
    (f64Finite 0x429D4C0000000000 ∧ |f64Value 0x429D4C0000000000 - 15000 * (2 ^ 29 : ℕ)| = 0 ∧
      AdmittedSize (2 ^ 29) ∧ 2 ^ 32 ≤ frameLength (2 ^ 29) + plain.burstPad) := by
  obtain ⟨h1, h2, h3, h4, h5, h6⟩ := test_f64_values
  have ht : plain.rateTol = (0, 1) := by decide
  refine ⟨by rw [ht]; norm_num, ?_, ⟨by unfold f64Finite; decide, ?_, ?_, ?_⟩, ⟨by unfold f64Finite; decide, ?_⟩,
    ⟨by unfold f64Finite; decide, ?_, test_not_admitted.1⟩,
    ⟨by unfold f64Finite; decide, ?_, test_admitted_1024, by decide, by decide, by decide⟩,
    ⟨by unfold f64Finite; decide, ?_, ⟨29, by norm_num, rfl⟩, by decide⟩⟩
  · rw [h6]; simp
  · rw [h2]; norm_num
  · rw [h2]; norm_num
  · rw [h2]; norm_num
  · rw [h3]; norm_num
  · rw [h4]; norm_num
  · rw [h1]; norm_num
  · rw [h5]; norm_num

theorem test_witness_ResetAndSetThreshold :
    (ready blank).inst = .ready blank ∧ State.reset.instState ≠ .ready := ⟨rfl, by decide⟩

theorem test_witness_NotReadyRefused :
    State.reset.instState ≠ .ready ∧ ({ State.reset with inst := .failed .eCfgFftSize } : State).instState ≠ .ready ∧
    (Instr.op (.processBurst [] 0) ≠ .reset ∧ Instr.op (.processBurst [] 0) ≠ .configure ∧
      Instr.op (.processBurst [] 0) = .processBurst) ∧
    (Instr.op (.crc24Check []) ≠ .reset ∧ Instr.op (.crc24Check []) ≠ .configure ∧
      Instr.op (.crc24Check []) ≠ .processBlock ∧ Instr.op (.crc24Check []) ≠ .processBurst) := by decide

theorem test_witness_UnitOperationFrame :
    (∃ t, exec (.qpskDemap Cx.zero) (ready blank) = .next t) ∧
    Instr.op (.qpskDemap Cx.zero) ∉ [Op.reset, .configure, .setThreshold, .processBlock, .processBurst, .xcorrInit,
      .xcorrPush, .fsmBlock] := ⟨⟨_, rfl⟩, by decide⟩

theorem test_witness_OnlyConfigureChangesConfiguration :
    (∃ t, exec (.setThreshold 0) (ready blank) = .next t) ∧ Instr.op (.setThreshold 0) ≠ .configure ∧
    (∃ t, exec .reset (ready blank) = .next t) ∧ Instr.op .reset ≠ .setThreshold :=
  ⟨⟨_, rfl⟩, by decide, ⟨_, rfl⟩, by decide⟩

theorem test_witness_RegisterTable :
    (ready blank).inst = .ready blank ∧ blank.fsm = .waiting ∧
    (ready { blank with fsm := .collecting 7 }).inst = .ready { blank with fsm := .collecting 7 } := ⟨rfl, rfl, rfl⟩

theorem test_witness_DataCarrierIndicesResult :
    (ready blank).inst = .ready blank ∧ AdmittedSize (BitVec.toNat (1024 : U32)) ∧
    ¬AdmittedSize (BitVec.toNat (512 : U32)) := ⟨rfl, test_admitted_1024, test_not_admitted.1⟩

theorem test_witness_CarrierIndicesSymmetric :
    ∃ t, exec (.dataCarrierIndices 1024) (ready blank) = .next t ∧ t.reply = some (.indices (carrierIndices 1024)) := by
  have hk : fftSizeOk (BitVec.toNat (1024 : U32)) = true := by decide
  have h : dataCarrierIndices .dataCarrierIndices (BitVec.toNat (1024 : U32)) = .ok (carrierIndices 1024) := by
    rw [dataCarrierIndices, if_pos hk]
    simp
  refine ⟨(ready blank).withReply (.indices (carrierIndices 1024)), ?_, rfl⟩
  simp only [exec, execDataCarrierIndices, directOp_ready (show (ready blank).inst = .ready blank from rfl), h, Except.map,
    State.finish]

theorem test_witness_ZcFreqResult :
    (ready blank).inst = .ready blank ∧ ((600 : U32) = 600 ∧ (147 : U32) = 147) ∧ (601 : U32) ≠ 600 ∧
    (601 : U32) ≠ 147 := ⟨rfl, ⟨rfl, rfl⟩, by decide, by decide⟩

theorem test_witness_GenerateZcResult :
    (ready blank).inst = .ready blank ∧ AdmittedSize (BitVec.toNat (1024 : U32)) ∧ (600 : U32) = 600 ∧
    ¬AdmittedSize (BitVec.toNat (1000 : U32)) ∧ (5 : U32) ≠ 600 ∧ (5 : U32) ≠ 147 :=
  ⟨rfl, test_admitted_1024, rfl, test_not_admitted.2.1, by decide, by decide⟩

/-- 600 exact values. -/
def ones : List (Cx ℝ) := List.replicate 600 ⟨1, 0⟩

theorem test_witness_ZcTimeClosedForm : AdmittedSize 1024 ∧ ones.length = 600 ∧ 1023 < 1024 :=
  ⟨test_admitted_1024, List.length_replicate, by norm_num⟩

theorem test_witness_ZcSequenceUnitSymmetric : 600 ≤ 600 ∧ 0 ≤ 600 := by decide

theorem test_witness_ZcDemodulatesToItself :
    AdmittedSize 1024 ∧ ones.length = 600 ∧ (599 < 600) ∧ (1023 < 1024 ∧ 1023 ∉ dataCarriers 1024) ∧
    (512 < 1024 ∧ 512 ∉ dataCarriers 1024) :=
  ⟨test_admitted_1024, List.length_replicate, by norm_num, by decide +kernel, by decide +kernel⟩

/-- For every statement whose one hypothesis is a `READY` instance: `XcorrInitResult`, `QpskDemapResult`, and the first
clause of `XcorrPushResult`. -/
theorem test_witness_ready : (ready blank).inst = .ready blank := rfl

theorem test_witness_XcorrInitResult : (ready blank).inst = .ready blank := rfl

/-- One window complete, of two samples. -/
theorem test_witness_XcorrPushResult :
    let r := { blank with taps := [⟨1, 0⟩, ⟨2, 0⟩], hist := [smp 1, smp 2] }
    (ready r).inst = .ready r ∧ r.hist.drop r.xcNext = smp 1 :: [smp 2] ∧ r.taps.length = [smp 2].length + 1 :=
  ⟨rfl, rfl, rfl⟩

theorem test_witness_XcorrPushCut :
    (ready blank).inst = .ready blank ∧ (blank.hist ≠ [] ∨ [smp 1] ≠ []) := ⟨rfl, .inr (by decide)⟩

/-- Two exact values of mean 0 and variance 1. -/
def swing : List (Cx ℝ) := [⟨1, 0⟩, ⟨-1, 0⟩]

theorem test_witness_ScoresAreIdeal : swing ≠ [] := by simp [swing]

theorem test_witness_ScoreRange : swing ≠ [] ∧ ([⟨2, 0⟩, ⟨3, 0⟩] : List (Cx ℝ)).length = swing.length :=
  ⟨by simp [swing], rfl⟩

theorem test_witness_ScoreSelfMatchAndScale :
    swing ≠ [] ∧ (⟨0, 2⟩ : Cx ℝ) ≠ ⟨0, 0⟩ ∧ xcorrTapsVar exactNumerics swing ≠ 0 ∧
    (true = true ∧ exactSum swing = ⟨0, 0⟩) ∧ ([⟨2, 0⟩, ⟨3, 0⟩] : List (Cx ℝ)).length = swing.length := by
  refine ⟨by simp [swing], by simp, ?_, ⟨rfl, ?_⟩, rfl⟩
  · norm_num [xcorrTapsVar, centred, exactNumerics, exactSum, exactAbs2, swing, widenC]
  · simp [exactSum, swing]

/-- One state for each row of the transition table; the threshold is 0.5, the score 0.9 or 0.5. -/
theorem test_witness_FsmOneSample :
    let collecting := { blank with fsm := .collecting 3, burstBuf := [smp 1], burstLen := 3 }
    let last := { blank with fsm := .collecting 3, burstBuf := [smp 1], burstLen := 2 }
    (blank.fsm = .waiting ∧ f32Gt 0x3F000000 blank.threshold = false) ∧
    (f32Gt 0x3F666666 blank.threshold = true ∧ blank.burstLen ≠ 1) ∧
    (collecting.fsm = .collecting 3 ∧ collecting.burstBuf.length + 1 ≠ collecting.burstLen) ∧
    (last.fsm = .collecting 3 ∧ last.burstBuf.length + 1 = last.burstLen) ∧
    ({ blank with burstLen := 1 } : Regs).burstLen = 1 := by decide +kernel

theorem test_witness_FsmCut :
    (ready blank).inst = .ready blank ∧ [(0 : F32)].length = [smp 1].length ∧ ([] : List F32).length = ([] : List C32).length :=
  ⟨rfl, rfl, rfl⟩

theorem test_witness_BurstsAreDisjointSlices :
    let r := { blank with burstLen := 2 }
    (ready r).inst = .ready r ∧ r.fsm = .waiting ∧ r.burstBuf = [] ∧ 1 ≤ r.burstLen ∧
    [(0x3F666666 : F32), 0, 0x3F666666, 0].length = [smp 1, smp 2, smp 3, smp 4].length :=
  ⟨rfl, rfl, rfl, by decide, rfl⟩

/-- Bursts of two samples; no crossing, a crossing at the last sample, a crossing at the last but one. -/
theorem test_witness_FsmExactness :
    let r := { blank with burstLen := 2 }
    let quiet : List F32 := [0, 0x3F000000]
    let late : List F32 := [0, 0x3F666666]
    let full : List F32 := [0, 0x3F666666, 0]
    r.fsm = .waiting ∧ r.burstBuf = [] ∧
    (quiet.length = [smp 1, smp 2].length ∧ ∀ v ∈ quiet, f32Gt v r.threshold = false) ∧
    (late[1]? = some 0x3F666666 ∧ f32Gt 0x3F666666 r.threshold = true ∧
      (∀ v ∈ late.take 1, f32Gt v r.threshold = false) ∧ [smp 1, smp 2].length < 1 + r.burstLen) ∧
    (full[1]? = some 0x3F666666 ∧ (∀ v ∈ full.take 1, f32Gt v r.threshold = false) ∧
      [smp 1, smp 2, smp 3].length = 1 + r.burstLen) ∧
    (full.length = [smp 1, smp 2, smp 3].length ∧ 1 ≤ r.burstLen ∧ 1 + r.burstLen ≤ [smp 1, smp 2, smp 3].length) := by
  intro r quiet late full
  have h : ∀ v ∈ ([0, 0x3F000000] : List F32), f32Gt v blank.threshold = false := by
    have : ([0, 0x3F000000] : List F32).all (fun v => !f32Gt v blank.threshold) = true := by decide +kernel
    intro v hv
    simpa using List.all_eq_true.1 this v hv
  refine ⟨rfl, rfl, ⟨rfl, h⟩, ⟨rfl, by decide +kernel, ?_, by decide⟩, ⟨rfl, ?_, rfl⟩, rfl, by decide, by decide⟩ <;>
    exact fun v hv => h v (by
      obtain rfl : v = 0 := by simpa [late, full] using hv
      simp)

/-- A NaN; the two zeros and the greatest finite value. -/
theorem test_witness_ThresholdComparison :
    f32Nan 0x7F800001 ∧ f32Finite 0 ∧ f32Finite 0x80000000 ∧ f32Finite 0x7F7FFFFF := by
  refine ⟨?_, ?_, ?_, ?_⟩ <;> simp [f32Nan, f32Finite]

/-- `1 + 2^-24`, a tie, and the greatest finite value itself. -/
theorem test_witness_RoundingIsToNearest :
    (f64Finite 0x3FF0000010000000 ∧ |f64Value 0x3FF0000010000000| ≤ f32Value 0x7F7FFFFF) ∧
    (f64Finite 0x47EFFFFFE0000000 ∧ |f64Value 0x47EFFFFFE0000000| ≤ f32Value 0x7F7FFFFF) ∧ f32Finite 0xFF7FFFFF := by
  have hm : f32Value 0x7F7FFFFF = (2 ^ 24 - 1) * 2 ^ (104 : ℤ) := by
    simp [f32Value]
    norm_num
  rw [hm, f64Value_normal 0x3FF 0x10000000 (by decide) (by decide) (by decide),
    f64Value_normal 0x47E 0xFFFFFE0000000 (by decide) (by decide) (by decide)]
  refine ⟨⟨by simp [f64Finite], ?_⟩, ⟨by simp [f64Finite], ?_⟩, by simp [f32Finite]⟩
  · rw [abs_of_nonneg (by positivity)]
    norm_num
  · rw [abs_of_nonneg (by positivity)]
    norm_num

/-- A 2 in the last place; a burst of one frame. -/
theorem test_witness_BitValueErrors :
    (ready blank).inst = .ready blank ∧ (List.replicate 7199 (0 : Byte) ++ [2]).length = 7200 ∧
    (∃ b ∈ List.replicate 7199 (0 : Byte) ++ [2], b ≠ 0 ∧ b ≠ 1) ∧
    ∃ t e, exec (.processBurst [smp 1] 7) (ready blank) = .next t ∧ t.reply = some (.error e) :=
  ⟨rfl, by rw [List.length_append, List.length_replicate]; rfl, ⟨2, List.mem_append_right _ List.mem_cons_self, by decide, by decide⟩, _, _, rfl, rfl⟩

theorem test_witness_PrefixSchedule : 1 ≤ 9 ∧ 9 ≤ 9 ∧ (9 = 1 ∨ 9 = 9) ∧ 2 ≤ 8 ∧ 8 ≤ 8 := by decide

/-- One element too many or too few for each operand. -/
theorem test_witness_SizeErrors :
    (ready blank).inst = .ready blank ∧ [(0 : F32)].length ≠ ([] : List C32).length ∧
    (List.replicate 9879 (smp 0)).length ≠ blank.burstLen ∧ (List.replicate 9881 (smp 0)).length ≠ blank.frameLen ∧
    (List.replicate 7199 (0 : Byte)).length ≠ 7200 ∧ (List.replicate 7201 (0 : S8)).length ≠ 7200 ∧
    (List.replicate 173 (0 : Byte)).length ≠ 176 ∧
    ¬([[1], [], [2, 3]].length = 3 ∧ ∀ d ∈ ([[1], [], [2, 3]] : List (List ℤ)), d.length = 1412) ∧
    ¬([[1], [2]].length = 3 ∧ ∀ d ∈ ([[1], [2]] : List (List ℤ)), d.length = 1412) ∧
    plain.scoreSrc = .external := by
  simp only [List.length_replicate]
  refine ⟨rfl, by decide, by decide, by decide, by decide, by decide, by decide, by decide, by decide, rfl⟩

/-- A burst of exactly one frame. -/
theorem test_witness_SyncAlignResult :
    (ready blank).inst = .ready blank ∧ (blank.pilotSel = 4 ∨ blank.pilotSel = 6) ∧
    (List.replicate 9880 (smp 0)).length = blank.burstLen ∧ blank.fftSize ≤ blank.burstLen :=
  ⟨rfl, .inl rfl, List.length_replicate, by decide⟩

theorem test_witness_CfoResults :
    (ready blank).inst = .ready blank ∧ FrameOk blank ∧ (List.replicate 9880 (smp 0)).length = blank.frameLen :=
  ⟨rfl, ⟨.inl rfl, rfl⟩, List.length_replicate⟩

/-- Two useful samples and a prefix of one, all ones, rotated by a quarter turn a sample, which is the greatest rotation the
estimate resolves. -/
theorem test_witness_CfoRoundTrip :
    let l : Layout := ⟨2, 1, 1⟩
    let g : List (Cx ℝ) := List.replicate 3 ⟨1, 0⟩
    let w := Real.pi / 2
    let a := l.symCpStart 1
    1 ≤ l.n ∧ a + l.n + l.cpShort ≤ g.length ∧
    (∀ k, k < l.cpShort → g.getD (a + l.n + k) ⟨0, 0⟩ = g.getD (a + k) ⟨0, 0⟩) ∧
    (∃ k, k < l.cpShort ∧ g.getD (a + k) ⟨0, 0⟩ ≠ ⟨0, 0⟩) ∧ -Real.pi < w * l.n ∧ w * l.n ≤ Real.pi := by
  have hpi := Real.pi_pos
  refine ⟨by norm_num, by simp, ?_, ⟨0, by norm_num, by simp⟩, ?_, ?_⟩
  · intro k hk
    obtain rfl : k = 0 := by simpa using hk
    simp
  · simp only [Nat.cast_ofNat]; linarith
  · simp only [Nat.cast_ofNat]; linarith

theorem test_witness_FrameLengthOfSchedule : 1 ≤ 9 ∧ 9 ≤ 9 ∧ (9 = 1 ∨ 9 = 9) ∧ 2 ≤ 8 ∧ 8 ≤ 8 := by decide

theorem test_witness_FrameLayout : 1 ≤ 8 ∧ 8 ≤ 8 ∧ 1 ≤ 1 := by decide

theorem test_witness_OfdmDemodResult :
    (ready blank).inst = .ready blank ∧ FrameOk blank ∧ AdmittedSize blank.fftSize ∧ blank.cpShort ≤ blank.cpLong ∧
    blank.dcIdx = dataCarriers blank.fftSize ∧ (List.replicate 9880 (smp 0)).length = blank.frameLen :=
  ⟨rfl, ⟨.inl rfl, rfl⟩, test_admitted_1024, by decide, rfl, List.length_replicate⟩

/-- A grid of zeros, so that every received pilot carrier is a zero. -/
theorem test_witness_ChannelResults :
    (ready blank).inst = .ready blank ∧ (blank.pilotSel = 4 ∨ blank.pilotSel = 6) ∧ blank.zcFreq.length = 600 ∧
    isGrid 9 600 (List.replicate 9 (List.replicate 600 (smp 0))) = true ∧ (List.replicate 600 (smp 0)).length = 600 :=
  ⟨rfl, .inl rfl, List.length_replicate, by decide +kernel, List.length_replicate⟩

/-- A gain of `2j` on every carrier. -/
theorem test_witness_EqualizationRemovesGain :
    let H : List (Cx ℝ) := List.replicate 600 ⟨0, 2⟩
    let T : List (List (Cx ℝ)) := List.replicate 9 ones
    (1 ≤ 4 ∧ 4 ≤ 9) ∧ H.length = 600 ∧ ones.length = 600 ∧ isGrid 9 600 T = true ∧ T.getD (4 - 1) [] = ones ∧
    (∀ h ∈ H, h ≠ ⟨0, 0⟩) ∧ (∀ v ∈ ones, v ≠ ⟨0, 0⟩) ∧ (1 ≤ 9 ∧ 9 ≤ 9 ∧ 9 ≠ 4) := by
  refine ⟨by norm_num, List.length_replicate, List.length_replicate, ?_, rfl, ?_, ?_, by norm_num⟩
  · have h : ones.length = 600 := List.length_replicate
    simp [isGrid, h]
  · intro h hh
    rw [List.eq_of_mem_replicate hh]
    simp
  · intro v hv
    rw [List.eq_of_mem_replicate hv]
    simp

theorem test_witness_QpskDemapResult : (ready blank).inst = .ready blank := rfl

theorem test_witness_BitSelectResult :
    (ready blank).inst = .ready blank ∧ isGrid 9 1200 (List.replicate 9 (List.replicate 1200 true)) = true ∧ 5 < 6 ∧
    1199 < 1200 := ⟨rfl, by decide +kernel, by norm_num, by norm_num⟩

/-- 7200 zeros; and a first offending element in the last place. -/
theorem test_witness_SoftMapResult :
    let good : List Byte := List.replicate 7200 0
    let bad : List Byte := List.replicate 7199 0 ++ [2]
    (ready blank).inst = .ready blank ∧ (good.length = 7200 ∧ ∀ b ∈ good, b = 0 ∨ b = 1) ∧
    bad.length = 7200 ∧ bad[7199]? = some 2 ∧ (2 : Byte) ≠ 0 ∧ (2 : Byte) ≠ 1 ∧ ∀ b ∈ bad.take 7199, b = 0 ∨ b = 1 := by
  refine ⟨rfl, ⟨List.length_replicate, fun b hb => .inl (List.eq_of_mem_replicate hb)⟩,
    by rw [List.length_append, List.length_replicate]; rfl, ?_, by decide,
    by decide, ?_⟩
  · rw [List.getElem?_append_right (by rw [List.length_replicate]), List.length_replicate]
    rfl
  · intro b hb
    rw [List.take_append_of_le_length (by rw [List.length_replicate])] at hb
    exact .inl (List.eq_of_mem_replicate (List.mem_of_mem_take hb))

theorem test_witness_RateDematchResult :
    (ready blank).inst = .ready blank ∧ (List.replicate 7200 (-63 : S8)).length = 7200 ∧ 2 < 3 ∧ 1411 < 1412 :=
  ⟨rfl, List.length_replicate, by norm_num, by norm_num⟩

theorem test_witness_RateMatchRoundTrip :
    let z := List.replicate 1412 false
    ∀ σ, σ < 3 → (Streams.get ⟨z, z, z⟩ σ).length = 1412 := by
  intro z σ hσ
  have : σ = 0 ∨ σ = 1 ∨ σ = 2 := by omega
  rcases this with rfl | rfl | rfl <;> exact List.length_replicate

/-- The dematched codeword of any 1408 bits, all ones for instance, has the lengths. -/
theorem test_witness_TurboDecodeResult :
    (ready blank).inst = .ready blank ∧ (List.replicate 1408 true).length = 1408 ∧
    ∀ ds, ds = dematchBits (codeword (List.replicate 1408 true)) →
      ds.d0.length = 1412 ∧ ds.d1.length = 1412 ∧ ds.d2.length = 1412 := by
  refine ⟨rfl, List.length_replicate, ?_⟩
  intro ds h
  have hl : ∀ σ, σ < 3 → (Streams.get ds σ).length = 1412 := by
    intro σ hσ
    rw [h]
    exact dematchBits_length _ hσ
  exact ⟨hl 0 (by norm_num), hl 1 (by norm_num), hl 2 (by norm_num)⟩

theorem test_witness_DecodeResult :
    (ready blank).inst = .ready blank ∧ (List.replicate 7200 true).length = 7200 := ⟨rfl, List.length_replicate⟩

theorem test_witness_DecodeRoundTrip :
    (ready blank).inst = .ready blank ∧ (List.replicate 173 (0xA5 : Byte)).length = 173 := ⟨rfl, List.length_replicate⟩

theorem test_witness_CrcCheckResult :
    (ready blank).inst = .ready blank ∧ (List.replicate 176 (0xA5 : Byte)).length = 176 := ⟨rfl, List.length_replicate⟩

theorem test_witness_CrcLinear : [(0x01 : Byte), 0x02].length = [(0xFF : Byte), 0x80].length := rfl

theorem test_witness_CrcConventionsAgree : (List.replicate 176 (0xA5 : Byte)).length = 176 := List.length_replicate

theorem test_witness_ProcessBurstResult :
    let r := configured1024 Config.params
    (ready r).inst = .ready r ∧ r.Inv Config.params ∧ (List.replicate r.burstLen (smp 1)).length = r.burstLen :=
  ⟨rfl, test_configured_inv _, List.length_replicate⟩

/-- An instance of either kind. -/
theorem test_witness_ProcessBlockResult :
    let inner : Params := { plain with scoreSrc := .internal, xcMeanRemove := true }
    ((ready (configured1024 plain)).inst = .ready (configured1024 plain) ∧ (configured1024 plain).Inv plain ∧
      plain.scoreSrc = .external ∧ [(0 : F32)].length = [smp 1].length) ∧
    ((ready (configured1024 inner)).inst = .ready (configured1024 inner) ∧ (configured1024 inner).Inv inner ∧
      inner.scoreSrc ≠ .external) :=
  ⟨⟨rfl, test_configured_inv _, rfl, rfl⟩, rfl, test_configured_inv _, by decide⟩

end Witnesses

end Sys2Proof.Tests
end

section
/-!
PROOFS. The rules about `step`, and the scope family (spec 00_scope) settled by them.
-/

namespace Sys2Proof.Machine

/-- Taking the first issued operation leaves the operations behind it. -/
theorem State.takeIssue_of_issued_cons {s : State} {w : Issue} {rest : List Issue} (hs : s.issued = w :: rest) :
    s.takeIssue = { s with issued := rest } := by
  simp only [State.takeIssue, hs, List.tail_cons]

/-- A step with an operation issued whose form spells `i` runs `i` on the state without that operation (00 R14, R15). -/
theorem step_of_decode_ok {s : State} {w : Issue} {rest : List Issue} {i : Instr} (hs : s.issued = w :: rest)
    (hw : decode w = .ok i) : step s = exec i s.takeIssue := by
  simp only [step, hs, hw]

/-- Settles O4: the step rule, with the taken operation written as the list that is left. -/
theorem stepRunsDecoded : Obligations.StepRunsDecoded := by
  intro s w rest i hs hw
  calc step s = exec i s.takeIssue := step_of_decode_ok hs hw
    _ = exec i { s with issued := rest } := by rw [State.takeIssue_of_issued_cons hs]

end Sys2Proof.Machine
end

section
/-!
PROOFS. What an operation may do to `INST_STATE` and the registers (spec 10_state R22 to R34): the one rule about `exec`
that the family of state statements is proved from.
-/

namespace Sys2Proof.Machine

open Sys2Proof

/-! ### The views of `INST_STATE` in a `READY` state -/

theorem State.errCode_of_ready {s : State} {r : Regs} (hs : s.inst = .ready r) : s.errCode = .ok := by
  simp only [State.errCode, hs]

theorem State.regs?_of_ready {s : State} {r : Regs} (hs : s.inst = .ready r) : s.regs? = some r := by
  simp only [State.regs?, hs]

theorem State.inv_of_ready {s : State} {r : Regs} (hs : s.inst = .ready r) : s.Inv ↔ r.Inv Config.params := by
  simp only [State.Inv, hs]

/-- The invariant speaks of `INST_STATE` and what exists in it alone. -/
theorem State.Inv.of_inst_eq {s t : State} (h : s.Inv) (ht : t.inst = s.inst) : t.Inv := by
  unfold State.Inv
  rwa [ht]

/-! ### Operations that hand back a reply and do nothing else -/

/-- `t` is `s` with a reply handed back and perhaps free values drawn. -/
def State.Replies (s t : State) : Prop := ∃ n v, t = (s.draw n).withReply v

theorem State.Replies.inst_eq {s t : State} (h : s.Replies t) : t.inst = s.inst := by
  obtain ⟨n, v, rfl⟩ := h
  simp

theorem State.replies_withReply (s : State) (v : Reply) : s.Replies (s.withReply v) := ⟨0, v, rfl⟩

theorem State.replies_raiseDirect (s : State) (e : Record) : s.Replies (s.raiseDirect e) := ⟨0, .error e, rfl⟩

theorem State.replies_finish (s : State) (x : Except Record Reply) : s.Replies (s.finish x) := by
  rcases s.finish_cases x with ⟨v, -, h⟩ | ⟨e, -, h⟩ <;> rw [h]
  · exact s.replies_withReply v
  · exact s.replies_raiseDirect e

/-- Outside `READY` a directly issued operation only replies (60 R347). -/
theorem directOp_replies {stage : Op} {s t : State} {body : Regs → Answer} (h : directOp stage s body = .next t)
    (hb : ∀ r, body r = .next t → s.Replies t) : s.Replies t := by
  rcases directOp_cases h with ⟨r, -, hr⟩ | ⟨-, ht⟩
  · exact hb r hr
  · cases ht
    exact s.replies_raiseDirect _

theorem directOp_finish_replies {stage : Op} {s t : State} {x : Regs → Except Record Reply}
    (h : directOp stage s (fun r => .next (s.finish (x r))) = .next t) : s.Replies t :=
  directOp_replies h fun r hb => by
    cases hb
    exact s.replies_finish (x r)

/-- The shape of `CFO_ESTIMATE` and `OFDM_DEMOD`: reads inside a frame of the right length, or `E_SIZE`. -/
theorem directOp_sizedRead_replies {α : Type} {stage : Op} {s t : State} {c : Regs → Prop} [DecidablePred c] {f : Fault}
    {x : Regs → Option α} {g : α → Reply} {e : Regs → Record}
    (h : directOp stage s (fun r =>
      if c r then orFault f (x r) (fun v => .next (s.withReply (g v))) else .next (s.raiseDirect (e r))) = .next t) :
    s.Replies t :=
  directOp_replies h fun r hb => by
    split at hb
    · obtain ⟨v, -, hv⟩ := orFault_next.1 hb
      cases hv
      exact s.replies_withReply (g v)
    · cases hb
      exact s.replies_raiseDirect (e r)

theorem execTurboDecode_replies {d0 d1 : Option (List Int)} {d2 : List (List Int)} {s t : State}
    (h : execTurboDecode d0 d1 d2 s = .next t) : s.Replies t :=
  directOp_replies h fun r hb => by
    split at hb
    · cases hb
      exact s.replies_withReply _
    · cases hb
      exact ⟨1, .error _, rfl⟩

/-- Every operation but the system's and the three that write the registers of U2 and U3 is pure: it replies and does
nothing else (40 to 47; 60 R350). -/
theorem exec_replies {i : Instr} {s t : State}
    (hi : i.op ∉ [.reset, .configure, .setThreshold, .processBlock, .processBurst, .xcorrInit, .xcorrPush, .fsmBlock])
    (h : exec i s = .next t) : s.Replies t := by
  cases i with
  | reset | configure | setThreshold | processBlock | processBurst | xcorrInit | xcorrPush | fsmBlock =>
    simp [Instr.op] at hi
  | generateZc | dataCarrierIndices | zcFreq | syncAlign | cfoCorrect | softMap | rateDematch | decode | crc24Check =>
    exact directOp_finish_replies h
  | cfoEstimate | ofdmDemod => exact directOp_sizedRead_replies h
  | turboDecode => exact execTurboDecode_replies h
  | equalize | qpskDemap | bitSelect =>
    refine directOp_replies h fun r hb => ?_
    cases hb
    exact s.replies_withReply _
  | chanEst =>
    refine directOp_replies h fun r hb => ?_
    cases hb
    exact ⟨chanDraws, _, rfl⟩

/-! ### The updates an operation other than `CONFIGURE` and `SET_THRESHOLD` is made of -/

/-- One update of the registers of a `READY` machine. -/
inductive Regs.Update (P : Params) : Regs → Regs → Prop where
  | latch (r : Regs) : Update P r r.latch
  | xcorrInit (r : Regs) (ref : List C32) : Update P r (r.xcorrInit P ref)
  | xcorrPush (r : Regs) (samples : List C32) (readPos : U64) : Update P r (r.xcorrPush P samples readPos).1
  | fsmBlock (r : Regs) (samples : List C32) (scores : List F32) (readPos : U64) :
      Update P r (r.fsmBlock samples scores readPos).1
  | resetDetector (r : Regs) : Update P r r.resetDetector
  | clearTransients (r : Regs) : Update P r r.clearTransients

/-- A sequence of such updates. -/
abbrev Regs.Updates (P : Params) : Regs → Regs → Prop := Relation.ReflTransGen (Regs.Update P)

/-- `INST_STATE` and what exists in it are the same in `s` and `t`, or both are `READY` with registers that
updates relate. -/
def State.Evolves (P : Params) (s t : State) : Prop :=
  t.inst = s.inst ∨ ∃ r r', s.inst = .ready r ∧ t.inst = .ready r' ∧ r.Updates P r'

section Evolves

variable {P : Params} {s t u : State} {r r' : Regs}

theorem State.Evolves.of_inst_eq (h : t.inst = s.inst) : s.Evolves P t := .inl h

theorem State.Evolves.of_updates (hs : s.inst = .ready r) (ht : t.inst = .ready r') (h : r.Updates P r') :
    s.Evolves P t := .inr ⟨r, r', hs, ht, h⟩

theorem State.Evolves.of_update (hs : s.inst = .ready r) (ht : t.inst = .ready r') (h : r.Update P r') :
    s.Evolves P t := .of_updates hs ht (.single h)

theorem State.Evolves.trans (h : s.Evolves P t) (h' : t.Evolves P u) : s.Evolves P u := by
  rcases h with h | ⟨r, r₁, hs, ht, hr⟩ <;> rcases h' with h' | ⟨r₂, r', ht', hu, hr'⟩
  · exact .inl (h'.trans h)
  · exact .of_updates (h ▸ ht') hu hr'
  · exact .of_updates hs (h'.trans ht) hr
  · rw [ht, Inst.ready.injEq] at ht'
    subst ht'
    exact .of_updates hs hu (hr.trans hr')

theorem directOp_evolves {stage : Op} {body : Regs → Answer} (h : directOp stage s body = .next t)
    (hb : ∀ r, s.inst = .ready r → body r = .next t → s.Evolves P t) : s.Evolves P t := by
  rcases directOp_cases h with ⟨r, hs, hr⟩ | ⟨-, ht⟩
  · exact hb r hs hr
  · cases ht
    exact .of_inst_eq (by simp)

theorem agentOp_evolves {stage : Op} {body : Regs → Answer} (h : agentOp stage s body = .next t)
    (hb : ∀ r, s.inst = .ready r → body r = .next t → s.Evolves P t) : s.Evolves P t := by
  rcases agentOp_cases h with ⟨r, hs, hr⟩ | ⟨-, ht⟩
  · exact hb r hs hr
  · cases ht
    exact .of_inst_eq (by simp)

/-! ### `PROCESS_BURST` and `PROCESS_BLOCK` -/

theorem State.reportBurst_inst (s : State) (r : Regs) (start : U64) (run : BurstRun) :
    (s.reportBurst r start run).inst = .ready r.clearTransients := by
  unfold State.reportBurst
  split <;> simp

theorem State.endBlock_inst (P : Params) (s : State) (r : Regs) (bursts : List Burst) :
    (s.endBlock P r bursts).inst = s.inst := by
  unfold State.endBlock
  split <;> simp

theorem processBurst_evolves {burst : List C32} {start : U64} (h : processBurst P burst start s = .next t) :
    s.Evolves P t :=
  agentOp_evolves h fun r hs hb => by
    split at hb
    · obtain ⟨run, -, hrun⟩ := orFault_next.1 hb
      cases hrun
      exact .of_update hs (s.reportBurst_inst r start run) (.clearTransients r)
    · cases hb
      exact .of_inst_eq (by simp)

theorem deliverBursts_evolves {bs : List Burst} (h : deliverBursts P bs s = .next t) : s.Evolves P t := by
  induction bs generalizing s with
  | nil =>
    cases h
    exact .of_inst_eq rfl
  | cons b bs ih =>
    unfold deliverBursts at h
    split at h
    case h_1 u hu =>
      have hsend : s.Evolves P (s.send (.burst b)) := .of_inst_eq (by simp)
      exact (hsend.trans (processBurst_evolves hu)).trans (ih h)
    case h_2 => cases h
    case h_3 => cases h

/-- What U3 is fed comes with the registers as they were, or as `XCORR_PUSH` left them (48 R324). -/
theorem Regs.feed_updates {samples : List C32} {readPos : U64} {scores : List F32} {f : Feed}
    (h : r.feed P samples readPos scores = some (r', f)) : r.Updates P r' := by
  unfold Regs.feed at h
  split at h
  · cases h
    exact .refl
  · dsimp only at h
    split at h
    · cases h
      exact .single (.xcorrPush r samples readPos)
    · cases h

theorem runBlock_evolves {samples : List C32} {readPos : U64} {scores : List F32} (hs : s.inst = .ready r)
    (h : runBlock P r samples readPos scores s = .next t) : s.Evolves P t := by
  obtain ⟨⟨r₁, f⟩, hfeed, hrun⟩ := orFault_next.1 h
  dsimp only at hrun
  have hupd : r.Updates P (r₁.fsmBlock f.samples f.scores f.pos).1 :=
    ((Relation.ReflTransGen.single (.latch r)).trans (Regs.feed_updates hfeed)).tail (.fsmBlock ..)
  split at hrun
  case h_1 u hu =>
    cases hrun
    have hfed : s.Evolves P (s.withRegs (r₁.fsmBlock f.samples f.scores f.pos).1) :=
      .of_updates hs (State.withRegs_inst ..) hupd
    exact (hfed.trans (deliverBursts_evolves hu)).trans (.of_inst_eq (State.endBlock_inst ..))
  case h_2 => cases hrun
  case h_3 => cases hrun

theorem processBlock_evolves {samples : List C32} {readPos : U64} {scores : List F32}
    (h : processBlock P samples readPos scores s = .next t) : s.Evolves P t :=
  agentOp_evolves h fun r hs hb => by
    split at hb
    · cases hb
      exact .of_inst_eq (by simp)
    · exact runBlock_evolves hs hb

/-! ### Every operation -/

theorem execReset_evolves (h : execReset s = .next t) : s.Evolves P t := by
  unfold execReset at h
  split at h
  · next r hs =>
    cases h
    exact .of_update hs (by simp) (.resetDetector r)
  all_goals
    cases h
    exact .of_inst_eq (by simp)

theorem execFsmBlock_evolves {samples : List C32} {scores : List F32} {readPos : U64}
    (h : execFsmBlock samples scores readPos s = .next t) : s.Evolves P t :=
  directOp_evolves h fun r hs hb => by
    split at hb
    · cases hb
      exact .of_update hs rfl (.fsmBlock r samples scores readPos)
    · cases hb
      exact .of_inst_eq (by simp)

end Evolves

theorem execSetThreshold_cases {x : F32} {s t : State} (h : execSetThreshold x s = .next t) :
    t.inst = s.inst ∨ ∃ r, s.inst = .ready r ∧ t.inst = .ready (r.withThreshold x) := by
  rcases directOp_cases h with ⟨r, hs, hr⟩ | ⟨-, ht⟩
  · cases hr
    exact .inr ⟨r, hs, by simp⟩
  · cases ht
    exact .inl (by simp)

/-- Everything an operation can do to `INST_STATE` and the registers: `CONFIGURE` writes them all, `SET_THRESHOLD`
writes `THRESHOLD`, and every other operation is a sequence of updates. -/
theorem exec_next_cases {i : Instr} {s t : State} (h : exec i s = .next t) :
    (∃ sampleRate threshold pilotSel, i = .configure sampleRate threshold pilotSel ∧
      t = configure Config.params sampleRate threshold pilotSel s) ∨
    (∃ x r, i = .setThreshold x ∧ s.inst = .ready r ∧ t.inst = .ready (r.withThreshold x)) ∨
    s.Evolves Config.params t := by
  cases i with
  | configure sampleRate threshold pilotSel =>
    cases h
    exact .inl ⟨sampleRate, threshold, pilotSel, rfl, rfl⟩
  | setThreshold x =>
    rcases execSetThreshold_cases h with ht | ⟨r, hs, ht⟩
    · exact .inr (.inr (.of_inst_eq ht))
    · exact .inr (.inl ⟨x, r, rfl, hs, ht⟩)
  | reset => exact .inr (.inr (execReset_evolves h))
  | processBlock => exact .inr (.inr (processBlock_evolves h))
  | processBurst => exact .inr (.inr (processBurst_evolves h))
  | xcorrInit ref =>
    refine .inr (.inr (directOp_evolves h fun r hs hb => ?_))
    cases hb
    exact .of_update hs (by simp) (.xcorrInit r ref)
  | xcorrPush samples readPos =>
    refine .inr (.inr (directOp_evolves h fun r hs hb => ?_))
    cases hb
    exact .of_update hs rfl (.xcorrPush r samples readPos)
  | fsmBlock => exact .inr (.inr (execFsmBlock_evolves h))
  | _ => exact .inr (.inr (.of_inst_eq (exec_replies (by simp [Instr.op]) h).inst_eq))

end Sys2Proof.Machine
end

section
/-!
PROOFS. The state family (spec 10_state): what is kept of the configuration, the invariant between operations, power-on and
the register table.
-/

namespace Sys2Proof.Machine

open Sys2Proof Sys2Proof.Terms

/-! ### The configuration is kept (10 R22 to R24) -/

theorem Regs.Updates.configOf_eq {P : Params} {r r' : Regs} (h : r.Updates P r') : configOf r' = configOf r := by
  induction h with
  | refl => rfl
  | tail _ hu ih =>
    rw [← ih]
    cases hu <;> rfl

theorem Regs.Updates.threshold_eq {P : Params} {r r' : Regs} (h : r.Updates P r') : r'.threshold = r.threshold := by
  induction h with
  | refl => rfl
  | tail _ hu ih =>
    rw [← ih]
    cases hu <;> rfl

theorem Regs.configOf_withThreshold (r : Regs) (x : F32) : configOf (r.withThreshold x) = configOf r := rfl

/-- What every operation but `CONFIGURE` keeps of what only `CONFIGURE` writes. -/
def State.SameConfig (s t : State) : Prop :=
  t.instState = s.instState ∧ t.errCode = s.errCode ∧ t.regs?.map configOf = s.regs?.map configOf

theorem State.SameConfig.of_inst_eq {s t : State} (h : t.inst = s.inst) : s.SameConfig t := by
  simp only [State.SameConfig, State.instState, State.errCode, State.regs?, h, and_self]

theorem State.SameConfig.of_ready {s t : State} {r r' : Regs} (hs : s.inst = .ready r) (ht : t.inst = .ready r')
    (h : configOf r' = configOf r) : s.SameConfig t := by
  refine ⟨?_, ?_, ?_⟩
  · rw [State.instState_ready.2 ⟨r, hs⟩, State.instState_ready.2 ⟨r', ht⟩]
  · rw [State.errCode_of_ready hs, State.errCode_of_ready ht]
  · rw [State.regs?_of_ready hs, State.regs?_of_ready ht, Option.map_some, Option.map_some, h]

theorem State.Evolves.sameConfig {P : Params} {s t : State} (h : s.Evolves P t) : s.SameConfig t := by
  rcases h with h | ⟨r, r', hs, ht, h⟩
  · exact .of_inst_eq h
  · exact .of_ready hs ht h.configOf_eq

theorem State.Evolves.threshold_eq {P : Params} {s t : State} (h : s.Evolves P t) :
    t.regs?.map (·.threshold) = s.regs?.map (·.threshold) := by
  rcases h with h | ⟨r, r', hs, ht, h⟩
  · simp only [State.regs?, h]
  · rw [State.regs?_of_ready hs, State.regs?_of_ready ht, Option.map_some, Option.map_some, h.threshold_eq]

/-- Settles O15: `SET_THRESHOLD` writes `THRESHOLD` alone, and no update writes the configuration or `THRESHOLD`. -/
theorem onlyConfigureChangesConfiguration : Obligations.OnlyConfigureChangesConfiguration := by
  intro i s t h hi
  have hkept : s.SameConfig t ∧ (i.op ≠ .setThreshold → t.regs?.map (·.threshold) = s.regs?.map (·.threshold)) := by
    rcases exec_next_cases h with ⟨_, _, _, rfl, -⟩ | ⟨x, r, rfl, hs, ht⟩ | he
    · exact absurd rfl hi
    · exact ⟨.of_ready hs ht (r.configOf_withThreshold x), fun hx => absurd rfl hx⟩
    · exact ⟨he.sameConfig, fun _ => he.threshold_eq⟩
  obtain ⟨⟨hstate, herr, hconfig⟩, hthr⟩ := hkept
  exact ⟨hstate, herr, hconfig, hthr⟩

/-! ### Updates keep the invariant of the registers -/

section Inv

variable {P : Params} {r r' : Regs}

theorem Regs.ConfigOk.of_configOf_eq (h : r.ConfigOk P) (he : configOf r' = configOf r) : r'.ConfigOk P := by
  simp only [configOf, Prod.mk.injEq] at he
  obtain ⟨⟨hrate, hsize, hlong, hshort⟩, ⟨hframe, hburst, hpilot, hroot⟩, -⟩ := he
  exact {
    fromRate := by rw [hrate, hsize, h.fromRate]
    sizeOk := by rw [hsize, h.sizeOk]
    cpLong := by rw [hlong, hsize, h.cpLong]
    cpShort := by rw [hshort, hsize, h.cpShort]
    frameLen := by rw [hframe, hsize, h.frameLen]
    burstLen := by rw [hburst, hsize, h.burstLen]
    burstFits := hburst.trans_lt h.burstFits
    root := by rw [hpilot, hroot, h.root] }

theorem Regs.ReferenceOk.of_configOf_eq (h : r.ReferenceOk) (he : configOf r' = configOf r) : r'.ReferenceOk := by
  simp only [configOf, Prod.mk.injEq] at he
  obtain ⟨⟨-, hsize, -⟩, -, htime, hfreq, hidx⟩ := he
  exact {
    zcTime := by rw [htime, hsize, h.zcTime]
    zcFreq := by rw [hfreq, h.zcFreq]
    dcIdx := by rw [hidx, hsize, h.dcIdx] }

/-- U3 stays as it is, goes idle, or runs over a block (10 R28). -/
theorem Regs.Update.detectorOk (h : r.Inv P) (u : r.Update P r') : r'.DetectorOk := by
  have hd := h.detector
  cases u with
  | latch | xcorrInit | xcorrPush | clearTransients => exact hd
  | resetDetector => exact (Regs.detectorOk_iff _).2 (Detector.idle_ok _)
  | fsmBlock samples scores readPos =>
    rw [Regs.detectorOk_iff] at hd ⊢
    exact (Detector.run_ok h.config.burst_pos r.threshold readPos (samples.zip scores) hd).1

/-- Only `XCORR_PUSH` writes the registers of U2 that its invariant speaks of (10 R31). -/
theorem Regs.Update.correlatorOk (h : r.CorrelatorOk P) (u : r.Update P r') : r'.CorrelatorOk P := by
  cases u with
  | xcorrPush samples readPos => exact Regs.xcorrPush_correlatorOk h samples readPos
  | latch | xcorrInit | fsmBlock | resetDetector | clearTransients =>
    exact ⟨h.position, h.next, h.energy, h.sum⟩

theorem Regs.Update.noTransient (h : r.trans = {}) (u : r.Update P r') : r'.trans = {} := by
  cases u with
  | latch | xcorrInit | xcorrPush | fsmBlock => exact h
  | resetDetector | clearTransients => rfl

theorem Regs.Update.inv (h : r.Inv P) (u : r.Update P r') : r'.Inv P where
  config := h.config.of_configOf_eq (Regs.Updates.configOf_eq (.single u))
  reference := h.reference.of_configOf_eq (Regs.Updates.configOf_eq (.single u))
  detector := u.detectorOk h
  correlator := u.correlatorOk h.correlator
  noTransient := u.noTransient h.noTransient

theorem Regs.Updates.inv (h : r.Inv P) (hu : r.Updates P r') : r'.Inv P := by
  induction hu with
  | refl => exact h
  | tail _ u ih => exact u.inv ih

theorem Regs.Inv.withThreshold (h : r.Inv P) (x : F32) : (r.withThreshold x).Inv P where
  config := h.config.of_configOf_eq (r.configOf_withThreshold x)
  reference := h.reference.of_configOf_eq (r.configOf_withThreshold x)
  detector := h.detector
  correlator := ⟨h.correlator.position, h.correlator.next, h.correlator.energy, h.correlator.sum⟩
  noTransient := h.noTransient

end Inv

theorem State.Evolves.inv {s t : State} (hs : s.Inv) (h : s.Evolves Config.params t) : t.Inv := by
  rcases h with h | ⟨r, r', hr, hr', hu⟩
  · exact hs.of_inst_eq h
  · exact (State.inv_of_ready hr').2 (Regs.Updates.inv ((State.inv_of_ready hr).1 hs) hu)

/-! ### `CONFIGURE` establishes it (48 R321) -/

section Configure

variable {P : Params} {sampleRate : F64} {pilotSel : Byte} {n root : Nat} {e : Record}

theorem fftSizeOf_ok (h : fftSizeOf P sampleRate = .ok n) : fftSizeOk n = true := by
  unfold fftSizeOf at h
  dsimp only at h
  split at h
  · cases h
  · split at h
    · cases h
    · split at h
      · next hn =>
        cases h
        exact hn
      · cases h

theorem fftSizeOf_error (h : fftSizeOf P sampleRate = .error e) : e.code.isConfigError := by
  unfold fftSizeOf at h
  dsimp only at h
  split at h
  · cases h
    exact .inl rfl
  · split at h
    · cases h
      exact .inl rfl
    · split at h
      · cases h
      · cases h
        exact .inr (.inl rfl)

theorem configureCheck_ok (h : configureCheck P sampleRate pilotSel = .ok (n, root)) :
    fftSizeOf P sampleRate = .ok n ∧ zcRootOfSymbol pilotSel.toNat = some root ∧ burstLenOf P n < 2 ^ 32 := by
  unfold configureCheck at h
  split at h
  · cases h
  · next hn =>
    split at h
    · cases h
    · next hroot =>
      split at h
      · next hfits =>
        cases h
        exact ⟨hn, hroot, hfits⟩
      · cases h

theorem configureCheck_error (h : configureCheck P sampleRate pilotSel = .error e) : e.code.isConfigError := by
  unfold configureCheck at h
  split at h
  · next hn =>
    cases h
    exact fftSizeOf_error hn
  · split at h
    · cases h
      exact .inr (.inr rfl)
    · split at h
      · cases h
      · cases h
        exact .inr (.inl rfl)

theorem zcTime_length (ν : Numerics F32 HReal) (n : Nat) (y : List C64) : (zcTime ν n y).length = n := by
  rw [zcTime, zcTimeExact, List.length_map, List.length_map, List.length_range]

theorem configuredRegs_zcFreq (threshold : F32) :
    (configuredRegs P sampleRate threshold pilotSel n root).zcFreq = zcFrequency P.numerics P.zcRemoved root := by
  simp only [configuredRegs, Regs.xcorrInit_zcFreq, freshRegs]

theorem configuredRegs_dcIdx (threshold : F32) :
    (configuredRegs P sampleRate threshold pilotSel n root).dcIdx = carrierIndices n := by
  simp only [configuredRegs, Regs.xcorrInit_dcIdx, freshRegs]


theorem configuredRegs_inv (threshold : F32) (h : configureCheck P sampleRate pilotSel = .ok (n, root)) :
    (configuredRegs P sampleRate threshold pilotSel n root).Inv P := by
  obtain ⟨hrate, hroot, hfits⟩ := configureCheck_ok h
  exact {
    config := ⟨hrate, fftSizeOf_ok hrate, rfl, rfl, rfl, rfl, hfits, hroot⟩
    reference := ⟨zcTime_length .., by rw [configuredRegs_zcFreq, zcFrequency_length _ _ (Params.zcRemoved_le P)],
      configuredRegs_dcIdx threshold⟩
    detector := rfl
    correlator := ⟨fun hne => absurd rfl hne, Nat.zero_le _, rfl, (Bool.and_false _).symm⟩
    noTransient := rfl }

/-- A successful `CONFIGURE` writes registers that satisfy the invariant, a failed one a configuration error (60 R343). -/
theorem configure_inv (sampleRate : F64) (threshold : F32) (pilotSel : Byte) (s : State) :
    (configure Config.params sampleRate threshold pilotSel s).Inv := by
  unfold configure
  split
  · next hc => exact (State.inv_of_ready rfl).2 (configuredRegs_inv threshold hc)
  · next e hc => exact configureCheck_error hc

end Configure

/-! ### Every step keeps it -/

theorem exec_inv {i : Instr} {s t : State} (hs : s.Inv) (h : exec i s = .next t) : t.Inv := by
  rcases exec_next_cases h with ⟨_, _, _, -, rfl⟩ | ⟨x, r, -, hr, ht⟩ | he
  · exact configure_inv ..
  · exact (State.inv_of_ready ht).2 (((State.inv_of_ready hr).1 hs).withThreshold x)
  · exact he.inv hs

theorem step_of_issued_nil {s : State} (hs : s.issued = []) : step s = .next s := by
  simp only [step, hs]

/-- A step that answers a next state is idle, or runs the operation it takes. -/
theorem step_next_cases {s t : State} (h : step s = .next t) :
    (s.issued = [] ∧ t = s) ∨ ∃ i, exec i s.takeIssue = .next t := by
  cases hs : s.issued with
  | nil =>
    rw [step_of_issued_nil hs] at h
    cases h
    exact .inl ⟨rfl, rfl⟩
  | cons w rest =>
    cases hw : decode w with
    | ok i => exact .inr ⟨i, by rw [← step_of_decode_ok hs hw, h]⟩
    | error e => simp [step, hs, hw] at h

/-- Settles O8: the invariant does not see the issued operations, and every operation keeps it. -/
theorem invKept : Obligations.InvKept := by
  intro s t hs h
  rcases step_next_cases h with ⟨-, rfl⟩ | ⟨i, hi⟩
  · exact hs
  · exact exec_inv (hs.of_inst_eq s.takeIssue_inst) hi

/-! ### Power-on and the register table (10 R37, R38) -/

/-- Outside `READY` the registers 0x02 to 0x0D hold no value (10 R22). -/
theorem State.register_of_regs?_none {s : State} (hs : s.regs? = none) {n : Nat} (h2 : 2 ≤ n) (h13 : n ≤ 13) :
    s.register n = .noValue := by
  unfold State.register
  rw [hs]
  interval_cases n <;> rfl

theorem State.register_of_ge {s : State} {n : Nat} (h : 15 ≤ n) : s.register n = .reserved := by
  obtain ⟨k, rfl⟩ := Nat.exists_eq_add_of_le' h
  rfl

/-- Settles O6: each register of the power-on state by its value, and the idle step by the rule for an empty list. -/
theorem powerOnState : Obligations.PowerOnState :=
  ⟨rfl, rfl, rfl, rfl, rfl, rfl, fun _ h2 h13 => State.register_of_regs?_none rfl h2 h13, step_of_issued_nil rfl⟩

/-- Settles O7: an `UNCONFIGURED` machine has no register for the invariant to speak of. -/
theorem invAtPowerOn : Obligations.InvAtPowerOn := trivial

/-- Settles O16: each row of the table read from the registers; `FSM_STATE` and `START_INDEX` by the state of U3. -/
theorem registerTable : Obligations.RegisterTable := by
  intro s r hs
  have hstate := State.instState_ready.2 ⟨r, hs⟩
  have herr := State.errCode_of_ready hs
  have hregs := State.regs?_of_ready hs
  have hwaiting (hw : r.fsm = .waiting) : s.register 0x0B = .value 1 0 ∧ s.register 0x0D = .noValue := by
    simp [State.register, hregs, Regs.startIndex, hw]
  have hcollecting (k : U64) (hk : r.fsm = .collecting k) :
      s.register 0x0B = .value 1 1 ∧ s.register 0x0D = .value 64 k.toNat := by
    simp [State.register, hregs, Regs.startIndex, hk]
  refine ⟨?_, ?_, ?_, ?_, ?_, ?_, ?_, ?_, ?_, ?_, ?_, hwaiting, hcollecting, ?_, rfl,
    fun n hn => State.register_of_ge hn⟩
  all_goals simp [State.register, hstate, herr, hregs, InstState.bits, Code.byte, Regs.collected]

end Sys2Proof.Machine
end

section
/-!
PROOFS. The memory family (spec 20_memory): no index leaves its buffer and no absent register is read (20 R62, 10 R42), so
from a state of the invariant every operation completes.
-/

namespace Sys2Proof.Machine

open Sys2Proof

/-! ### Completing -/

/-- The answer `a` of an operation run on `s` is a next state, no fault and no refusal, with the same operations waiting. -/
def State.Completes (s : State) (a : Answer) : Prop := ∃ t, a = .next t ∧ t.issued = s.issued

section Completes

variable {s t : State}

theorem State.Completes.next (h : t.issued = s.issued) : s.Completes (.next t) := ⟨t, rfl, h⟩

/-- An operation of the processing agent completes if its body does on the registers of a `READY` machine (60 R347). -/
theorem agentOp_completes {stage : Op} {body : Regs → Answer} (hb : ∀ r, s.inst = .ready r → s.Completes (body r)) :
    s.Completes (agentOp stage s body) := by
  rcases agentOp_cases rfl with ⟨r, hr, h⟩ | ⟨-, h⟩
  · exact h ▸ hb r hr
  · exact h ▸ .next (by simp)

/-- The same for a directly issued operation. -/
theorem directOp_completes {stage : Op} {body : Regs → Answer} (hb : ∀ r, s.inst = .ready r → s.Completes (body r)) :
    s.Completes (directOp stage s body) := by
  rcases directOp_cases rfl with ⟨r, hr, h⟩ | ⟨-, h⟩
  · exact h ▸ hb r hr
  · exact h ▸ .next (by simp)

theorem orFault_completes {α : Type} {f : Fault} {x : Option α} {body : α → Answer} (hx : ∃ v, x = some v)
    (hb : ∀ v, x = some v → s.Completes (body v)) : s.Completes (orFault f x body) := by
  obtain ⟨v, rfl⟩ := hx
  exact hb v rfl

/-- The shape of an operation that checks a size before it runs (60 R345). -/
theorem ite_completes {c : Prop} [Decidable c] {a b : Answer} (ha : c → s.Completes a) (hb : ¬ c → s.Completes b) :
    s.Completes (if c then a else b) := by
  split
  · next hc => exact ha hc
  · next hc => exact hb hc

end Completes

/-! ### What the ends of operations leave of the issued list -/

@[simp] theorem State.finish_issued (s : State) (x : Except Record Reply) : (s.finish x).issued = s.issued := by
  cases x <;> simp

@[simp] theorem State.endBlock_issued (P : Params) (s : State) (r : Regs) (bursts : List Burst) :
    (s.endBlock P r bursts).issued = s.issued := by
  unfold State.endBlock
  split <;> simp

@[simp] theorem configure_issued (P : Params) (sampleRate : F64) (threshold : F32) (pilotSel : Byte) (s : State) :
    (configure P sampleRate threshold pilotSel s).issued = s.issued := by
  unfold configure
  split <;> simp

/-! ### The operations that read a buffer or a register that may be absent -/

section Reads

variable {P : Params} {s : State} {r : Regs}

/-- Both windows of `CFO_ESTIMATE` lie in a frame of the right length (43 R204). -/
theorem Regs.cfoEstimate_some (h : r.Inv P) (ν : Numerics F32 HReal) {frame : List C32}
    (hf : frame.length = r.frameLen) : ∃ w, cfoEstimate ν r.layout r.pilotSel.toNat frame = some w :=
  ⟨_, Machine.cfoEstimate_some ν r.layout h.config.pilot (hf.trans h.config.frame)⟩

theorem processBurst_completes (h : ∀ r, s.inst = .ready r → r.Inv P) (burst : List C32) (start : U64) :
    s.Completes (processBurst P burst start s) :=
  agentOp_completes fun r hr => ite_completes
    (fun hb => orFault_completes (Regs.burstStages_some (h r hr) _ hb) fun run _ =>
      .next (State.reportBurst_frame (h r hr) start run).2)
    fun _ => .next (by simp)

/-- The feed of U3 exists: `T0` is read only where `XCORR_PUSH` has latched it (48 R325). -/
theorem Regs.feed_some (h : r.CorrelatorOk P) (samples : List C32) (readPos : U64) (scores : List F32) :
    ∃ rf, r.feed P samples readPos scores = some rf := by
  unfold Regs.feed
  split
  · exact ⟨_, rfl⟩
  · obtain ⟨f, hf⟩ := Regs.pairing_some h samples readPos
    dsimp only
    rw [hf]
    exact ⟨_, rfl⟩

/-- The bursts of a block are delivered on the registers that latch, feed and `FSM_BLOCK` left, which keep the
invariant. -/
theorem runBlock_completes (h : r.Inv P) (samples : List C32) (readPos : U64) (scores : List F32) :
    s.Completes (runBlock P r samples readPos scores s) := by
  have hlatch : r.latch.Inv P := (Regs.Update.latch r).inv h
  refine orFault_completes (Regs.feed_some hlatch.correlator samples readPos scores) ?_
  rintro ⟨r₁, f⟩ hfeed
  have hfed : (r₁.fsmBlock f.samples f.scores f.pos).1.Inv P :=
    (Regs.Update.fsmBlock ..).inv (Regs.Updates.inv hlatch (Regs.feed_updates hfeed))
  obtain ⟨t, ht, -, hissued⟩ := deliverBursts_ready hfed (r₁.fsmBlock f.samples f.scores f.pos).2
    (s.withRegs (r₁.fsmBlock f.samples f.scores f.pos).1) (State.withRegs_inst ..)
  dsimp only
  rw [ht]
  exact .next (by simp [hissued])

theorem processBlock_completes (h : ∀ r, s.inst = .ready r → r.Inv P) (samples : List C32) (readPos : U64)
    (scores : List F32) : s.Completes (processBlock P samples readPos scores s) :=
  agentOp_completes fun r hr => ite_completes (fun _ => .next (by simp))
    fun _ => runBlock_completes (h r hr) samples readPos scores

end Reads

/-! ### Every operation and every step -/

theorem execReset_completes (s : State) : s.Completes (execReset s) := by
  unfold execReset
  split <;> exact .next (by simp)

theorem execTurboDecode_completes (d0 d1 : Option (List Int)) (d2 : List (List Int)) (s : State) :
    s.Completes (execTurboDecode d0 d1 d2 s) :=
  directOp_completes fun _ _ => by
    split <;> exact .next (by simp)

/-- From a state of the invariant every operation completes. Only `PROCESS_BLOCK`, `PROCESS_BURST`, `CFO_ESTIMATE` and
`OFDM_DEMOD` have a fault to rule out. -/
theorem exec_completes {s : State} (hs : s.Inv) (i : Instr) : s.Completes (exec i s) := by
  have hinv (r : Regs) (hr : s.inst = .ready r) : r.Inv Config.params := (State.inv_of_ready hr).1 hs
  cases i with
  | reset => exact execReset_completes s
  | configure => exact .next (configure_issued ..)
  | processBlock samples readPos scores => exact processBlock_completes hinv samples readPos (scores.getD [])
  | processBurst burst start => exact processBurst_completes hinv burst start
  | cfoEstimate frame =>
    exact directOp_completes fun r hr => ite_completes
      (fun hf => orFault_completes (Regs.cfoEstimate_some (hinv r hr) _ hf) fun _ _ => .next (by simp))
      fun _ => .next (by simp)
  | ofdmDemod frame =>
    exact directOp_completes fun r hr => ite_completes
      (fun hf => orFault_completes (ofdmDemod_some (hinv r hr) _ hf) fun _ _ => .next (by simp))
      fun _ => .next (by simp)
  | fsmBlock =>
    exact directOp_completes fun _ _ => ite_completes (fun _ => .next (by simp)) fun _ => .next (by simp)
  | turboDecode d0 d1 d2 => exact execTurboDecode_completes d0 d1 d2 s
  | generateZc | dataCarrierIndices | zcFreq | syncAlign | cfoCorrect | softMap | rateDematch | decode | crc24Check =>
    exact directOp_completes fun _ _ => .next (State.finish_issued ..)
  | setThreshold | xcorrInit | xcorrPush | chanEst | equalize | qpskDemap | bitSelect =>
    exact directOp_completes fun _ _ => .next (by simp)

/-- Settles O9: an empty list is the idle step; otherwise the operation taken spells an instruction, which completes, and
the operations behind it are those that wait. -/
theorem stepProgress : Obligations.StepProgress := by
  intro s hinv hwell
  cases hs : s.issued with
  | nil => exact ⟨s, step_of_issued_nil hs, hwell, hs⟩
  | cons w rest =>
    obtain ⟨i, hi⟩ := hwell w (by simp [hs])
    obtain ⟨t, ht, hissued⟩ := exec_completes (hinv.of_inst_eq s.takeIssue_inst) i
    have hrest : t.issued = rest := by simp [hissued, hs]
    refine ⟨t, (step_of_decode_ok hs hi).trans ht, fun v hv => hwell v ?_, hrest⟩
    rw [hs]
    exact List.mem_cons_of_mem w (hrest ▸ hv)

end Sys2Proof.Machine
end

section
/-!
PROOFS. Reading an issued form (spec 30_encoding R118 to R121, R125): what the OPID table, the operand lists and the
decoder answer, said once, and the statements about the decoder from them.
-/

namespace Sys2Proof

/-! ### The OPID table (R119) -/

theorem Op.opid_of_ofOpid {b : Byte} {o : Op} (h : Op.ofOpid b = some o) : o.opid = b :=
  beq_iff_eq.1 (List.find?_some (p := fun o : Op => o.opid == b) h)

theorem Op.ofOpid_eq_none_iff {b : Byte} : Op.ofOpid b = none ↔ b.toNat ∉ Op.all.map fun o => o.opid.toNat := by
  simp [Op.ofOpid, List.find?_eq_none, BitVec.toNat_inj]

/-! ### The operand lists (R119) -/

/-- The streams given to `TURBO_DECODE`, read one by one and written in order again, are those given. -/
theorem streams_append {α : Type} (ds : List α) : ds[0]?.toList ++ ds[1]?.toList ++ ds.drop 2 = ds := by
  match ds with
  | [] | [_] | _ :: _ :: _ => rfl

/-- What is read from an operand list is an operation of that name with those operands: each row of the table
writes the values it reads, and `TURBO_DECODE` the streams it took apart. -/
theorem Op.withOperands_some {o : Op} {args : List Value} {i : Instr} (h : o.withOperands args = some i) :
    i.op = o ∧ i.operands = args := by
  unfold Op.withOperands at h
  split at h <;> cases h <;> simp only [Instr.op, Instr.operands, streams_append, and_self]

/-- The operands of a well-formed operation are read as that operation. Only `TURBO_DECODE` needs its well-formedness:
without it a later stream could stand where an earlier one is missing. -/
theorem Instr.withOperands_operands {i : Instr} (h : i.wf = true) : i.op.withOperands i.operands = some i := by
  cases i with
  | processBlock samples readPos scores => cases scores <;> rfl
  | turboDecode d0 d1 d2 =>
    simp only [Instr.wf, Bool.and_eq_true, Bool.or_eq_true] at h
    match d0, d1, d2 with
    | none, none, [] | some _, none, [] | some _, some _, _ => rfl
    | none, some _, _ | none, none, _ :: _ | some _, none, _ :: _ => simp at h
  | _ => rfl

/-! ### The decoder -/

/-- What the decoder can answer: the refusal of an OPID that names nothing, a well-formed operation read from the operands
of the one the OPID names, or the refusal of its operands. -/
theorem decode_cases (w : Issue) :
    (Op.ofOpid w.opid = none ∧ decode w = .error (.reservedOpid w.opid)) ∨
    ∃ o, Op.ofOpid w.opid = some o ∧
      ((∃ i, o.withOperands w.args = some i ∧ i.wf = true ∧ decode w = .ok i) ∨
        decode w = .error (.operandMismatch w.opid)) := by
  cases hopid : Op.ofOpid w.opid with
  | none => exact .inl ⟨rfl, by simp only [decode, hopid]⟩
  | some o =>
    refine .inr ⟨o, rfl, ?_⟩
    cases hargs : o.withOperands w.args with
    | none => exact .inr (by simp only [decode, hopid, hargs])
    | some i =>
      cases hwf : i.wf with
      | true => exact .inl ⟨i, rfl, hwf, by simp only [decode, hopid, hargs, hwf, if_true]⟩
      | false => exact .inr (by simp [decode, hopid, hargs, hwf])

theorem decode_eq_reservedOpid_iff {w : Issue} {b : Byte} :
    decode w = .error (.reservedOpid b) ↔ Op.ofOpid w.opid = none ∧ w.opid = b := by
  rcases decode_cases w with ⟨hopid, hdec⟩ | ⟨o, hopid, ⟨i, -, -, hdec⟩ | hdec⟩ <;> simp [hopid, hdec]

theorem decode_encode {i : Instr} (h : i.wf = true) : decode (encode i) = .ok i := by
  have hopid : Op.ofOpid i.op.opid = some i.op := (Laws.ofOpid_opid i.op).1
  simp only [decode, encode, hopid, Instr.withOperands_operands h, h, if_true]

theorem eq_encode_of_decode {w : Issue} {i : Instr} (h : decode w = .ok i) : i.wf = true ∧ w = encode i := by
  rcases decode_cases w with ⟨-, hdec⟩ | ⟨o, hopid, ⟨j, hargs, hwf, hdec⟩ | hdec⟩ <;> rw [hdec] at h <;> cases h
  obtain ⟨rfl, hoperands⟩ := Op.withOperands_some hargs
  refine ⟨hwf, ?_⟩
  calc w = ⟨i.op.opid, w.args⟩ := by rw [Op.opid_of_ofOpid hopid]
    _ = encode i := by rw [← hoperands]; rfl

/-- Settles O1: the decoder reads back what the encoder writes, and reads nothing else. -/
theorem decodeIffEncode : Obligations.DecodeIffEncode := by
  intro w i
  constructor
  · exact eq_encode_of_decode
  · rintro ⟨hwf, rfl⟩
    exact decode_encode hwf

/-- Settles O2: an OPID is refused as reserved when no row of the table has it, and those are the OPIDs of the rows. -/
theorem reservedOpidsRefused : Obligations.ReservedOpidsRefused := by
  intro b args
  have hnone := Op.ofOpid_eq_none_iff (b := b)
  simp only [decode_eq_reservedOpid_iff, and_true]
  exact hnone

/-! ### An OPID given without operands (log entry 26) -/

/-- The bits of an OPID are read as that OPID, with operands of zeros where it names an operation. -/
theorem issueOfBits_toNat (b : Byte) : issueOfBits 8 b.toNat = ⟨b, (Op.ofOpid b).elim [] Op.zeroOperands⟩ := by
  have hmod : b.toNat % 2 ^ 8 = b.toNat := Nat.mod_eq_of_lt b.isLt
  have hofNat : BitVec.ofNat 8 b.toNat = b := by simp
  simp only [issueOfBits, hmod, hofNat]
  cases Op.ofOpid b with
  | none => rfl
  | some o => exact if_pos b.isLt

/-- The OPID of a well-formed operation whose operands are all zeros is read as that operation. -/
theorem decodeTableWord_of_zeroOperands {i : Instr} (hwf : i.wf = true) (hz : i.operands = i.op.zeroOperands) :
    decodeTableWord 8 i.op.opid.toNat = some i := by
  have hw : issueOfBits 8 i.op.opid.toNat = encode i := by
    rw [issueOfBits_toNat, (Laws.ofOpid_opid i.op).1, Option.elim_some, ← hz]
    rfl
  simp only [decodeTableWord, hw, decode_encode hwf]

theorem decodeTableWord_of_reserved {b : Byte} (h : Op.ofOpid b = none) : decodeTableWord 8 b.toNat = none := by
  have hdec : decode ⟨b, []⟩ = .error (.reservedOpid b) := decode_eq_reservedOpid_iff.2 ⟨h, rfl⟩
  simp only [decodeTableWord, issueOfBits_toNat, h, Option.elim_none, hdec]

/-- Settles O3: each OPID is that of the operation named, whose operands are zeros; 0x05 is in no row. -/
theorem tableWordsDecode : Obligations.TableWordsDecode :=
  ⟨decodeTableWord_of_zeroOperands (i := .reset) rfl rfl,
   decodeTableWord_of_zeroOperands (i := .setThreshold 0) rfl rfl,
   decodeTableWord_of_zeroOperands (i := .zcFreq 0) rfl rfl,
   decodeTableWord_of_zeroOperands (i := .fsmBlock [] [] 0) rfl rfl,
   decodeTableWord_of_zeroOperands (i := .decode []) rfl rfl,
   decodeTableWord_of_zeroOperands (i := .crc24Check []) rfl rfl,
   decodeTableWord_of_reserved (b := 0x05) rfl⟩

end Sys2Proof

namespace Sys2Proof.Machine

/-- A step with a form issued that spells no operation is refused as the decoder refuses it (R121). -/
theorem step_of_decode_error {s : State} {w : Issue} {rest : List Issue} {e : DecodeError} (hs : s.issued = w :: rest)
    (hw : decode w = .error e) : step s = .refused (refusalOf e) := by
  simp only [step, hs, hw]

/-- Settles O5: the idle step, and each of the decoder's two refusals by the rule for a form that spells nothing. -/
theorem stepIdleOrRefused : Obligations.StepIdleOrRefused :=
  ⟨fun _ hs => step_of_issued_nil hs, fun _ _ _ _ hs hw => step_of_decode_error hs hw,
   fun _ _ _ _ hs hw => step_of_decode_error hs hw⟩

end Sys2Proof.Machine
end

section
/-!
PROOFS. The cyclic prefixes and the layout of a frame (spec 30_encoding R105, R106, R110, R111).
-/

namespace Sys2Proof.Machine

theorem Layout.cp_outer (l : Layout) {j : ℕ} (h : j = 1 ∨ j = 9) : l.cp j = l.cpLong := if_pos h

theorem Layout.cp_inner (l : Layout) {j : ℕ} (h2 : 2 ≤ j) (h8 : j ≤ 8) : l.cp j = l.cpShort := if_neg (by omega)

/-- R105, both of its cases. -/
theorem Layout.cp_schedule (l : Layout) (j : ℕ) :
    (j = 1 ∨ j = 9 → l.cp j = l.cpLong) ∧ (2 ≤ j → j ≤ 8 → l.cp j = l.cpShort) :=
  ⟨l.cp_outer, l.cp_inner⟩

/-- Symbol 9 ends the frame (R106, R110). -/
theorem Layout.symUsefulStart_nine_add (l : Layout) :
    l.symUsefulStart 9 + l.n = 9 * l.n + 2 * l.cpLong + 7 * l.cpShort := by
  rw [Layout.symUsefulStart_nine]
  omega

/-- The nine prefixes and useful parts sum to the position where symbol 9 ends. -/
theorem Layout.sum_symbols (l : Layout) :
    ((List.range 9).map fun j => l.cp (j + 1) + l.n).sum = l.symUsefulStart 9 + l.n :=
  calc ((List.range 9).map fun j => l.cp (j + 1) + l.n).sum = l.symCpStart (9 + 1) := rfl
    _ = l.symCpStart 9 + (l.cp 9 + l.n) := l.symCpStart_succ 9 (by decide)
    _ = l.symUsefulStart 9 + l.n := (Nat.add_assoc ..).symm

/-- Settles O40: the first and the last symbol have `CP_LONG`, the seven between `CP_SHORT`. -/
theorem prefixSchedule : Obligations.PrefixSchedule := by
  intro l
  refine ⟨?_, fun j _ _ => l.cp_schedule j⟩
  have hinner : (List.range 7).map (fun i => l.cp (i + 2)) = List.replicate 7 l.cpShort := by
    rw [List.map_eq_replicate_iff.2 fun i hi => l.cp_inner (by omega) (by have := List.mem_range.1 hi; omega),
      List.length_range]
  calc (List.range 9).map (fun i => l.cp (i + 1))
      = l.cp 1 :: (List.range 7).map (fun i => l.cp (i + 2)) ++ [l.cp 9] := rfl
    _ = l.cpLong :: List.replicate 7 l.cpShort ++ [l.cpLong] := by
      rw [hinner, l.cp_outer (.inl rfl), l.cp_outer (.inr rfl)]

/-- Settles O41: the frame length is where symbol 9 of the layout of `N` ends, which is what the schedule sums to. -/
theorem frameLengthOfSchedule : Obligations.FrameLengthOfSchedule := by
  refine ⟨fun l j _ _ => l.cp_schedule j, fun n => ⟨?_, rfl⟩, frameLenOf_mul 1⟩
  exact (Layout.symUsefulStart_nine_add _).symm.trans (Layout.sum_symbols ⟨n, cpLongOf n, cpShortOf n⟩).symm

/-- Settles O42: the positions as formulas of the layout, and the table at `N = 1024`. -/
theorem frameLayout : Obligations.FrameLayout := by
  refine ⟨fun l => ⟨l.symCpStart_one, fun j hj _ => ?_, fun _ => rfl, l.symUsefulStart_nine_add, ?_, ?_⟩, by decide⟩
  · calc l.symCpStart (j + 1) = l.symCpStart j + (l.cp j + l.n) := l.symCpStart_succ j hj
      _ = l.symUsefulStart j + l.n := (Nat.add_assoc ..).symm
  · exact l.symUsefulStart_interior 4 (by decide) (by decide)
  · exact l.symUsefulStart_interior 6 (by decide) (by decide)

end Sys2Proof.Machine
end

section
/-!
PROOFS. U1's two tables and its spectrum (spec 40_zc_sequence_generator R140, R141, R143, R149): the rules the family's
statements cite.
-/

namespace Sys2Proof.Machine

open Sys2Proof Sys2Proof.Terms

/-! ### Admitted sizes (40 R140) -/

theorem fftSizeOk_iff_admitted {n : ℕ} : fftSizeOk n = true ↔ AdmittedSize n := fftSizeOk_iff

theorem le_of_admitted {n : ℕ} (h : AdmittedSize n) : 1024 ≤ n := by
  obtain ⟨q, hq, rfl⟩ := fftSizeOk_dvd (fftSizeOk_iff_admitted.2 h)
  omega

theorem even_of_admitted {n : ℕ} (h : AdmittedSize n) : Even n := by
  obtain ⟨q, -, rfl⟩ := fftSizeOk_dvd (fftSizeOk_iff_admitted.2 h)
  exact ⟨512 * q, by ring⟩

/-! ### The data-carrier bins (40 R140, R149) -/

/-- The 300 bins left of the centre and the 300 right of it, as one list. -/
theorem carrierIndices_eq_dataCarriers {n : ℕ} (hn : 1024 ≤ n) : carrierIndices n = dataCarriers n := by
  rw [carrierIndices, dataCarriers, show (600 : ℕ) = 300 + 300 from rfl, List.range_add, List.map_append, List.map_map]
  refine congrArg₂ (· ++ ·) (List.map_congr_left fun i hi => if_pos (List.mem_range.1 hi))
    (List.map_congr_left fun i _ => ?_)
  rw [Function.comp_apply, if_neg (by omega)]
  omega

/-- Data carrier `i` stands at its signed carrier number from the centre (40 R149). -/
theorem carrierIndices_getD {n i : ℕ} (hn : 1024 ≤ n) (hi : i < 600) :
    (((carrierIndices n).getD i 0 : ℕ) : ℤ) = (n / 2 : ℕ) + carrierNumber i := by
  rw [List.getD_eq_getElem?_getD, carrierIndices_getElem? n i hi, Option.getD_some, carrierNumber]
  split <;> omega

theorem carrierIndices_getD_mem {i : ℕ} (n : ℕ) (hi : i < 600) : (carrierIndices n).getD i 0 ∈ carrierIndices n := by
  rw [List.getD_eq_getElem _ _ (by simpa using hi)]
  exact List.getElem_mem _

theorem half_notMem_carrierIndices {n : ℕ} (hn : 1024 ≤ n) : n / 2 ∉ carrierIndices n := by
  rw [mem_carrierIndices (by omega)]
  omega

theorem carrierNumber_add_reflect {i j : ℕ} (h : i + j = 599) : carrierNumber i + carrierNumber j = 0 := by
  unfold carrierNumber
  split <;> split <;> omega

/-! ### The values of a root (40 R141) -/

/-- The 600 values of a root in order, the phase of each as R141 writes it. -/
theorem zcFrequency_eq_map {S R : Type} (ν : Numerics S R) {removed : ℕ} (root : ℕ) (h : removed ≤ 600) :
    zcFrequency ν removed root = (List.range 600).map fun i =>
      let m := if i < removed then i else i + 1
      ν.cexpPi (-((root * m * (m + 1) : ℕ) : ℤ)) 601 := by
  refine List.ext_getElem? fun i => ?_
  rcases Nat.lt_or_ge i 600 with hi | hi
  · rw [zcFrequency_getElem? ν removed root hi, List.getElem?_map, List.getElem?_range hi, Option.map_some]
  · rw [List.getElem?_eq_none (by rw [zcFrequency_length ν root h]; exact hi), List.getElem?_eq_none (by simpa using hi)]

theorem zcRootOk_iff {root : U32} : zcRootOk root.toNat = true ↔ root = 600 ∨ root = 147 := by
  simp [zcRootOk, ← BitVec.toNat_inj]

/-! ### Half swaps (00 R12) -/

theorem swapHalves_append {α : Type} {a b : List α} (h : a.length = b.length) : swapHalves (a ++ b) = b ++ a := by
  have hhalf : (a ++ b).length / 2 = a.length := by rw [List.length_append]; omega
  rw [swapHalves, hhalf, List.drop_left, List.take_left]

/-- The half swap of an even length undoes itself (00 R12). -/
theorem swapHalves_swapHalves {α : Type} {x : List α} (h : Even x.length) : swapHalves (swapHalves x) = x := by
  obtain ⟨q, hq⟩ := h
  have hlen : (x.drop (x.length / 2)).length = (x.take (x.length / 2)).length := by
    rw [List.length_drop, List.length_take]; omega
  calc swapHalves (swapHalves x) = x.take (x.length / 2) ++ x.drop (x.length / 2) := swapHalves_append hlen
    _ = x := List.take_append_drop ..

/-! ### The spectrum of the reference (40 R143) -/

theorem zcSpectrum_getD_carrier {R : Type} [OfNat R 0] {n : ℕ} (hn : 1024 ≤ n) {y : List (Cx R)} (hy : y.length = 600)
    {i : ℕ} (hi : i < 600) (d : Cx R) : (zcSpectrum n y).getD ((carrierIndices n).getD i 0) d = y.getD i d := by
  simp only [List.getD_eq_getElem?_getD, carrierIndices_getElem? n i hi, Option.getD_some, zcSpectrum_carrier hn hy hi]

theorem zcSpectrum_getD_other {R : Type} [OfNat R 0] {n : ℕ} {y : List (Cx R)} (hy : y.length = 600) {k : ℕ} (hk : k < n)
    (hm : k ∉ carrierIndices n) (d : Cx R) : (zcSpectrum n y).getD k d = Cx.zero := by
  rw [List.getD_eq_getElem?_getD, zcSpectrum_other hy hk hm, Option.getD_some]

/-- Two stretches of values, `z` before, between and after them. -/
def stretches {α : Type} (a b : ℕ) (z : α) (u v : List α) : List α :=
  (List.replicate a z ++ u) ++ (z :: v ++ List.replicate b z)

section Stretches

variable {α : Type} (a b : ℕ) (z : α) {u v : List α} {i k : ℕ}

theorem stretches_length : (stretches a b z u v).length = a + u.length + 1 + v.length + b := by
  simp [stretches]
  omega

theorem stretches_getElem?_left (hi : i < u.length) : (stretches a b z u v)[a + i]? = u[i]? := by
  rw [stretches, List.getElem?_append_left (by simpa using hi), List.getElem?_append_right (by simp)]
  simp

theorem stretches_getElem?_right (hi : i < v.length) : (stretches a b z u v)[a + u.length + 1 + i]? = v[i]? := by
  rw [stretches, List.getElem?_append_right (by simp; omega), List.getElem?_append_left (by simp; omega)]
  simp [show a + u.length + 1 + i - (a + u.length) = i + 1 by omega]

theorem stretches_getElem?_other (hk : k < (stretches a b z u v).length)
    (ho : k < a ∨ k = a + u.length ∨ a + u.length + v.length < k) : (stretches a b z u v)[k]? = some z := by
  rw [stretches_length] at hk
  unfold stretches
  grind

end Stretches

/-- The spectrum in its five stretches: guard bins, 300 carriers, DC, 300 carriers, guard bins. -/
theorem zcSpectrum_eq_stretches {R : Type} [OfNat R 0] {n : ℕ} (hn : 1024 ≤ n) (he : Even n) {u v : List (Cx R)}
    (hu : u.length = 300) (hv : v.length = 300) :
    zcSpectrum n (u ++ v) = stretches (n / 2 - 300) (n / 2 - 301) Cx.zero u v := by
  obtain ⟨q, hq⟩ := he
  have huv : (u ++ v).length = 600 := by rw [List.length_append, hu, hv]
  have hlen : (stretches (n / 2 - 300) (n / 2 - 301) (Cx.zero : Cx R) u v).length = n := by
    rw [stretches_length]
    omega
  refine List.ext_getElem? fun k => ?_
  rcases Nat.lt_or_ge k n with hk | hk
  · by_cases hm : k ∈ carrierIndices n
    · rcases (mem_carrierIndices (by omega)).1 hm with hl | hr
      · obtain ⟨i, rfl⟩ := Nat.exists_eq_add_of_le hl.1
        have hcarrier := zcSpectrum_carrier hn huv (i := i) (by omega)
        rw [if_pos (by omega), List.getElem?_append_left (by omega)] at hcarrier
        rw [hcarrier, stretches_getElem?_left _ _ _ (by omega)]
      · obtain ⟨i, rfl⟩ := Nat.exists_eq_add_of_le hr.1
        have hcarrier := zcSpectrum_carrier hn huv (i := u.length + i) (by omega)
        rw [if_neg (by omega), List.getElem?_append_right (by omega), Nat.add_sub_cancel_left] at hcarrier
        have hplace : n / 2 - 299 + (u.length + i) = n / 2 + 1 + i := by omega
        have hplace' : n / 2 - 300 + u.length + 1 + i = n / 2 + 1 + i := by omega
        rw [← hplace, hcarrier, hplace, ← hplace', stretches_getElem?_right _ _ _ (by omega)]
    · rw [zcSpectrum_other huv hk hm, stretches_getElem?_other _ _ _ (by rwa [hlen])]
      rw [mem_carrierIndices (by omega)] at hm
      omega
  · rw [List.getElem?_eq_none (by rwa [zcSpectrum_length]), List.getElem?_eq_none (by rwa [hlen])]

/-- The spectrum as the inverse transform is given it, bin 0 first (40 R143, D9). -/
theorem swapHalves_zcSpectrum {R : Type} [OfNat R 0] {n : ℕ} (hn : 1024 ≤ n) (he : Even n) {y : List (Cx R)}
    (hy : y.length = 600) :
    swapHalves (zcSpectrum n y) =
      Cx.zero :: y.drop 300 ++ List.replicate (n - 601) Cx.zero ++ y.take 300 := by
  have htake : (y.take 300).length = 300 := by simp [hy]
  have hdrop : (y.drop 300).length = 300 := by simp [hy]
  obtain ⟨q, rfl⟩ := he
  calc swapHalves (zcSpectrum (q + q) y) = swapHalves (zcSpectrum (q + q) (y.take 300 ++ y.drop 300)) := by
        rw [List.take_append_drop]
    _ = _ := by
        rw [zcSpectrum_eq_stretches hn ⟨q, rfl⟩ htake hdrop, stretches, swapHalves_append (by simp; omega),
          show q + q - 601 = ((q + q) / 2 - 301) + ((q + q) / 2 - 300) by omega, List.replicate_add]
        simp only [List.cons_append, List.append_assoc]

/-! ### The operations when `READY` -/

section Ready

variable {s : State} {r : Regs}

theorem exec_dataCarrierIndices_ready (hs : s.inst = .ready r) (n : U32) :
    exec (.dataCarrierIndices n) s =
      .next (s.finish ((dataCarrierIndices .dataCarrierIndices n.toNat).map Reply.indices)) :=
  directOp_ready hs

theorem exec_zcFreq_ready (hs : s.inst = .ready r) (root : U32) :
    exec (.zcFreq root) s = .next (s.finish ((zcFreqOf Config.params root).map Reply.c64s)) :=
  directOp_ready hs

theorem exec_generateZc_ready (hs : s.inst = .ready r) (size root : U32) :
    exec (.generateZc size root) s = .next (s.finish ((generateZcOf Config.params size root).map Reply.c32s)) :=
  directOp_ready hs

end Ready

theorem dataCarrierIndices_of_admitted {stage : Op} {n : ℕ} (h : AdmittedSize n) :
    dataCarrierIndices stage n = .ok (carrierIndices n) :=
  if_pos (fftSizeOk_iff_admitted.2 h)

theorem dataCarrierIndices_of_not_admitted {stage : Op} {n : ℕ} (h : ¬AdmittedSize n) :
    dataCarrierIndices stage n = .error (fftSizeError stage n) :=
  if_neg (mt fftSizeOk_iff_admitted.1 h)

theorem zcFreqOf_of_root {root : U32} (h : root = 600 ∨ root = 147) (P : Params) :
    zcFreqOf P root = .ok (zcFrequency P.numerics P.zcRemoved root.toNat) :=
  if_pos (zcRootOk_iff.2 h)

theorem zcFreqOf_of_other {root : U32} (h1 : root ≠ 600) (h2 : root ≠ 147) (P : Params) :
    zcFreqOf P root = .error ⟨.eCfgZcRoot, .zcFreq, .zcRoot root⟩ :=
  if_neg (mt zcRootOk_iff.1 (not_or_intro h1 h2))

theorem generateZcOf_of_admitted {size : U32} (h : AdmittedSize size.toNat) (P : Params) (root : U32) :
    generateZcOf P size root = (zcFreqOf P root).map (zcTime P.numerics size.toNat) := by
  rw [generateZcOf, if_pos (fftSizeOk_iff_admitted.2 h)]
  cases zcFreqOf P root <;> rfl

theorem generateZcOf_of_not_admitted {size : U32} (h : ¬AdmittedSize size.toNat) (P : Params) (root : U32) :
    generateZcOf P size root = .error (fftSizeError .generateZc size.toNat) :=
  if_neg (mt fftSizeOk_iff_admitted.1 h)

/-- Settles O17: the bins written as two lists of 300, and the size check. -/
theorem dataCarrierIndicesResult : Obligations.DataCarrierIndicesResult := by
  intro s r n hs
  rw [exec_dataCarrierIndices_ready hs]
  refine ⟨fun h => ?_, fun h => ?_⟩
  · rw [dataCarrierIndices_of_admitted h, carrierIndices_eq_dataCarriers (le_of_admitted h)]
    rfl
  · rw [dataCarrierIndices_of_not_admitted h]
    rfl

/-- Only an admitted size is answered with indices, and only when `READY`. -/
theorem exec_dataCarrierIndices_reply {s t : State} {n : U32} {idx : List ℕ}
    (h : exec (.dataCarrierIndices n) s = .next t) (ht : t.reply = some (.indices idx)) :
    AdmittedSize n.toNat ∧ idx = carrierIndices n.toNat := by
  rcases directOp_cases h with ⟨r, -, hbody⟩ | ⟨-, hnext⟩
  · cases hbody
    by_cases hn : AdmittedSize n.toNat
    · rw [dataCarrierIndices_of_admitted hn] at ht
      exact ⟨hn, (Reply.indices.inj (Option.some.inj ht)).symm⟩
    · rw [dataCarrierIndices_of_not_admitted hn] at ht
      cases ht
  · cases hnext
    cases ht

/-- Settles O18: the carriers stand at their signed numbers from the centre, and those of `i` and `599 - i` are opposite. -/
theorem carrierIndicesSymmetric : Obligations.CarrierIndicesSymmetric := by
  intro s t n idx h ht
  obtain ⟨hadm, hidx⟩ := exec_dataCarrierIndices_reply h ht
  rw [hidx]
  have hn := le_of_admitted hadm
  have heven := Nat.even_iff.1 (even_of_admitted hadm)
  refine ⟨carrierIndices_length _, carrierIndices_nodup (by omega), half_notMem_carrierIndices hn, fun i hi => ?_⟩
  have hcarrier := carrierIndices_getD hn hi
  have hreflected := carrierIndices_getD hn (show 599 - i < 600 by omega)
  have hopposite := carrierNumber_add_reflect (Nat.add_sub_of_le (show i ≤ 599 by omega))
  constructor <;> omega

/-- Settles O19: the values of the root in order, and the root check. -/
theorem zcFreqResult : Obligations.ZcFreqResult := by
  intro s r root hs
  rw [exec_zcFreq_ready hs]
  refine ⟨fun h => ?_, fun h1 h2 => ?_⟩
  · rw [zcFreqOf_of_root h, zcFrequency_eq_map _ _ (Params.zcRemoved_le Config.params)]
    rfl
  · rw [zcFreqOf_of_other h1 h2]
    rfl

/-- Settles O20: the inverse transform is given the half-swapped spectrum; the size is checked before the root. -/
theorem generateZcResult : Obligations.GenerateZcResult := by
  intro s r size root hs
  rw [exec_generateZc_ready hs]
  refine ⟨fun h hroot => ?_, fun h => ?_, fun h h1 h2 => ?_⟩
  · have hlen := zcFrequency_length Config.params.numerics root.toNat (Params.zcRemoved_le Config.params)
    rw [generateZcOf_of_admitted h, zcFreqOf_of_root hroot]
    simp only [Except.map, State.finish_ok, zcTime, zcTimeExact, List.map_map,
      swapHalves_zcSpectrum (le_of_admitted h) (even_of_admitted h) hlen]
    rw [zcFrequency_eq_map _ _ (Params.zcRemoved_le Config.params)]
    rfl
  · rw [generateZcOf_of_not_admitted h]
    rfl
  · rw [generateZcOf_of_admitted h, zcFreqOf_of_other h1 h2]
    rfl

end Sys2Proof.Machine
end

section
/-!
PROOFS. The transforms of exact arithmetic (spec 00_scope R12) as Mathlib's Fourier transform on the residues modulo the
length, and the statements about the time-domain reference (40_zc_sequence_generator R144, R145) from its inversion.
-/

namespace Sys2Proof.Machine

open Sys2Proof Sys2Proof.Terms

/-! ### Turns and transforms -/

/-- `cexp` at `a / n` of a turn is the standard character of the residues modulo `n`. -/
theorem toC_cexp_turn {n : ℕ} [NeZero n] (a : ℤ) :
    toC (cexp (2 * Real.pi * a / n)) = ZMod.stdAddChar (a : ZMod n) := by
  rw [toC_cexp, ZMod.stdAddChar_coe]
  push_cast
  ring_nf

/-- A vector of length `n` as a function of the residues modulo `n`. -/
def onResidues (n : ℕ) (x : List (Cx ℝ)) (j : ZMod n) : ℂ := toC (x.getD j.val ⟨0, 0⟩)

theorem onResidues_natCast {n k : ℕ} (hk : k < n) (x : List (Cx ℝ)) :
    onResidues n x (k : ZMod n) = toC (x.getD k ⟨0, 0⟩) := by
  rw [onResidues, ZMod.val_natCast_of_lt hk]

theorem sum_range_eq_sum_residues {n : ℕ} [NeZero n] (f : ZMod n → ℂ) :
    ∑ k ∈ Finset.range n, f (k : ZMod n) = ∑ j, f j :=
  Finset.sum_nbij' (fun k => (k : ZMod n)) ZMod.val (fun _ _ => Finset.mem_univ _)
    (fun j _ => Finset.mem_range.2 j.val_lt) (fun _ hk => ZMod.val_natCast_of_lt (Finset.mem_range.1 hk))
    (fun j _ => ZMod.natCast_zmod_val j) fun _ _ => rfl

theorem list_sum_eq_sum_residues {n : ℕ} [NeZero n] {l : List ℂ} (hl : l.length = n) :
    l.sum = ∑ j : ZMod n, l.getD j.val 0 := by
  subst hl
  calc l.sum = ∑ k ∈ Finset.range l.length, l.getD k 0 := by
        rw [Finset.sum_range, ← List.sum_ofFn]
        simp
    _ = ∑ k ∈ Finset.range l.length, l.getD (k : ZMod l.length).val 0 :=
      Finset.sum_congr rfl fun k hk => by rw [ZMod.val_natCast_of_lt (Finset.mem_range.1 hk)]
    _ = ∑ j : ZMod l.length, l.getD j.val 0 := sum_range_eq_sum_residues fun j => l.getD j.val 0

theorem toC_exactSum_residues {n : ℕ} [NeZero n] {x : List (Cx ℝ)} (hx : x.length = n) :
    toC (exactSum x) = ∑ j, onResidues n x j := by
  rw [toC_sum, list_sum_eq_sum_residues ((List.length_map _).trans hx)]
  exact Finset.sum_congr rfl fun j _ => List.getD_map _ ⟨0, 0⟩ toC

/-- A transform of R12 sums the values against the standard character. -/
theorem toC_exactTransform {n : ℕ} [NeZero n] {x : List (Cx ℝ)} (hx : x.length = n) (sign : ℤ) (k : ℕ) :
    toC (exactTransform sign x k) =
      ∑ j : ZMod n, ZMod.stdAddChar ((sign : ZMod n) * (j * (k : ZMod n))) * onResidues n x j := by
  rw [exactTransform, toC_exactSum_residues ((List.length_mapIdx).trans hx)]
  refine Finset.sum_congr rfl fun j _ => ?_
  have hj : j.val < x.length := hx ▸ j.val_lt
  have hturn : (sign * 2 * Real.pi * k * j.val / x.length : ℝ) = 2 * Real.pi * (sign * (j.val * k) : ℤ) / n := by
    rw [hx]
    push_cast
    ring
  rw [onResidues, onResidues, List.getD_eq_getElem _ _ (by simpa using hj), List.getElem_mapIdx,
    List.getD_eq_getElem _ _ hj, toC_mul, hturn, toC_cexp_turn, mul_comm]
  simp

theorem toC_dft {n : ℕ} [NeZero n] {x : List (Cx ℝ)} (hx : x.length = n) (k : ℕ) :
    toC (exactNumerics.dft x k) = ZMod.dft (onResidues n x) k := by
  have h := toC_exactTransform hx (-1) k
  simpa [ZMod.dft_apply, exactNumerics] using h

/-- The unscaled inverse transform divided by the length is the inverse Fourier transform. -/
theorem toC_idft_div {n : ℕ} [NeZero n] {x : List (Cx ℝ)} (hx : x.length = n) (k : ℕ) :
    toC (exactNumerics.cdivNat (exactNumerics.idft x k) n) = ZMod.dft.symm (onResidues n x) k := by
  have h := toC_exactTransform hx 1 k
  rw [Int.cast_one, Int.cast_one] at h
  rw [toC_cdivNat, ZMod.invDFT_apply, smul_eq_mul, div_eq_inv_mul]
  congr 1
  simpa [exactNumerics] using h

/-! ### The time-domain reference (40 R143 to R145) -/

theorem zcTimeExact_length {S R : Type} [OfNat R 0] (ν : Numerics S R) (n : ℕ) (y : List (Cx R)) :
    (zcTimeExact ν n y).length = n := by
  rw [zcTimeExact, List.length_map, List.length_range]

theorem zcTimeExact_getElem? {S R : Type} [OfNat R 0] (ν : Numerics S R) {n m : ℕ} (hm : m < n) (y : List (Cx R)) :
    (zcTimeExact ν n y)[m]? = some (ν.cdivNat (ν.idft (swapHalves (zcSpectrum n y)) m) n) := by
  simp [zcTimeExact, hm]

/-- The spectrum as the inverse transform is given it: bin 0 first. -/
theorem swapped_zcSpectrum_length {R : Type} [OfNat R 0] (n : ℕ) (y : List (Cx R)) :
    (swapHalves (zcSpectrum n y)).length = n := by
  rw [swapHalves_length, zcSpectrum_length]

theorem onResidues_zcTimeExact {n : ℕ} [NeZero n] (y : List (Cx ℝ)) :
    onResidues n (zcTimeExact exactNumerics n y) = ZMod.dft.symm (onResidues n (swapHalves (zcSpectrum n y))) := by
  funext j
  rw [onResidues, List.getD_eq_getElem?_getD, zcTimeExact_getElem? _ j.val_lt, Option.getD_some,
    toC_idft_div (swapped_zcSpectrum_length n y), ZMod.natCast_zmod_val]

/-- Transforming the reference gives back the spectrum it was made from, element by element. -/
theorem dft_zcTimeExact {n k : ℕ} (hk : k < n) (y : List (Cx ℝ)) :
    exactNumerics.dft (zcTimeExact exactNumerics n y) k = (swapHalves (zcSpectrum n y)).getD k ⟨0, 0⟩ := by
  have : NeZero n := ⟨by omega⟩
  rw [← toC_eq_iff, toC_dft (zcTimeExact_length ..), onResidues_zcTimeExact, LinearEquiv.apply_symm_apply,
    onResidues_natCast hk]

/-- The centred spectrum of the reference is the spectrum it was made from. -/
theorem centredSpectrum_zcTimeExact {n : ℕ} (hn : Even n) (y : List (Cx ℝ)) :
    centredSpectrum exactNumerics (zcTimeExact exactNumerics n y) = zcSpectrum n y := by
  have hdft : (List.range n).map (exactNumerics.dft (zcTimeExact exactNumerics n y)) = swapHalves (zcSpectrum n y) := by
    refine List.ext_getElem (by simp [zcSpectrum_length]) fun k hk hk' => ?_
    rw [List.getElem_map, List.getElem_range, dft_zcTimeExact (by simpa using hk), List.getD_eq_getElem _ _ hk']
  rw [centredSpectrum, zcTimeExact_length, hdft, swapHalves_swapHalves (by rwa [zcSpectrum_length])]

theorem exactSum_zcTimeExact {n : ℕ} (hn : 0 < n) (y : List (Cx ℝ)) :
    exactSum (zcTimeExact exactNumerics n y) = (swapHalves (zcSpectrum n y)).getD 0 ⟨0, 0⟩ := by
  have : NeZero n := ⟨hn.ne'⟩
  rw [← dft_zcTimeExact hn, ← toC_eq_iff, toC_exactSum_residues (zcTimeExact_length ..), toC_dft (zcTimeExact_length ..),
    Nat.cast_zero, ZMod.dft_apply_zero]

/-- Settles O24: the centred spectrum is the spectrum the reference was made from, and the sum is its DC bin. -/
theorem zcDemodulatesToItself : Obligations.ZcDemodulatesToItself := by
  intro n y hadm hy
  have hn := le_of_admitted hadm
  have heven := even_of_admitted hadm
  simp only [centredSpectrum_zcTimeExact heven, ← carrierIndices_eq_dataCarriers hn]
  refine ⟨zcSpectrum_length n y, fun i hi => zcSpectrum_getD_carrier hn hy hi _,
    fun k hk hm => zcSpectrum_getD_other hy hk hm _, ?_⟩
  rw [exactSum_zcTimeExact (by omega), swapHalves_zcSpectrum hn heven hy]
  rfl

/-! ### The closed form (40 R144) -/

theorem onResidues_swapHalves {n : ℕ} [NeZero n] (hn : Even n) {x : List (Cx ℝ)} (hx : x.length = n) (j : ZMod n) :
    onResidues n (swapHalves x) j = onResidues n x (j + (n / 2 : ℕ)) := by
  subst hx
  simp only [onResidues, List.getD_eq_getElem?_getD, ZMod.val_add, ZMod.val_natCast, Nat.add_mod_mod]
  rw [swapHalves_getElem? x (Nat.even_iff.1 hn) _ j.val_lt]

/-- Data carrier `i` stands on residue `f(i)` of the spectrum the inverse transform is given (40 R149). -/
theorem carrierNumber_residue {n i : ℕ} (hn : 1024 ≤ n) (hi : i < 600) :
    (carrierNumber i : ZMod n) + (n / 2 : ℕ) = ((carrierIndices n).getD i 0 : ℕ) := by
  rw [← Int.cast_natCast ((carrierIndices n).getD i 0), carrierIndices_getD hn hi, Int.cast_add, Int.cast_natCast, add_comm]

theorem carrierNumber_residue_injOn {n : ℕ} (hn : 1024 ≤ n) :
    Set.InjOn (fun i => (carrierNumber i : ZMod n)) (Finset.range 600) := by
  intro i hi k hk (hik : (carrierNumber i : ZMod n) = carrierNumber k)
  have hi : i < 600 := by simpa using hi
  have hk : k < 600 := by simpa using hk
  have hbin := congrArg (fun j : ZMod n => (j + (n / 2 : ℕ)).val) hik
  simp only [carrierNumber_residue hn hi, carrierNumber_residue hn hk,
    ZMod.val_natCast_of_lt (carrierIndices_lt hn _ (carrierIndices_getD_mem n _)), hi, hk] at hbin
  have hnumber : carrierNumber i = carrierNumber k := by
    have hi' := carrierIndices_getD hn hi
    rw [hbin, carrierIndices_getD hn hk] at hi'
    exact (add_left_cancel hi').symm
  unfold carrierNumber at hnumber
  split at hnumber <;> split at hnumber <;> omega

/-- A sum over the spectrum the inverse transform is given is a sum over the 600 carriers. -/
theorem sum_swapped_zcSpectrum {n : ℕ} [NeZero n] (hn : 1024 ≤ n) (he : Even n) {y : List (Cx ℝ)} (hy : y.length = 600)
    (g : ZMod n → ℂ) :
    ∑ j, g j * onResidues n (swapHalves (zcSpectrum n y)) j =
      ∑ i ∈ Finset.range 600, g (carrierNumber i) * toC (y.getD i ⟨0, 0⟩) := by
  refine (Finset.sum_of_injOn _ (carrierNumber_residue_injOn hn) (fun _ _ => by simp) ?_ ?_).symm
  · intro j _ hj
    have hbin : (j + (n / 2 : ℕ)).val ∉ carrierIndices n := by
      intro hmem
      obtain ⟨i, hi, hget⟩ := List.mem_iff_getElem.1 hmem
      have hi : i < 600 := by simpa using hi
      refine hj ⟨i, by simpa using hi, add_right_cancel (b := ((n / 2 : ℕ) : ZMod n)) ?_⟩
      dsimp only
      rw [carrierNumber_residue hn hi, List.getD_eq_getElem _ _ (by simpa using hi), hget, ZMod.natCast_zmod_val]
    rw [onResidues_swapHalves he (zcSpectrum_length n y), onResidues, zcSpectrum_getD_other hy (ZMod.val_lt _) hbin]
    exact mul_zero _
  · intro i hi
    have hi := Finset.mem_range.1 hi
    rw [onResidues_swapHalves he (zcSpectrum_length n y), carrierNumber_residue hn hi,
      onResidues_natCast (carrierIndices_lt hn _ (carrierIndices_getD_mem n hi)), zcSpectrum_getD_carrier hn hy hi]

/-- One term of the closed form: the value of a carrier turned by its residue times the sample's number. -/
theorem toC_carrierTerm {n : ℕ} [NeZero n] (z : Cx ℝ) (f : ℤ) (m : ℕ) :
    toC (exactMul z (cexp (2 * Real.pi * f * m / n))) = ZMod.stdAddChar ((f : ZMod n) * (m : ZMod n)) * toC z := by
  have hturn : (2 * Real.pi * f * m / n : ℝ) = 2 * Real.pi * (f * m : ℤ) / n := by
    push_cast
    ring
  rw [toC_mul, hturn, toC_cexp_turn, mul_comm]
  simp

/-- Settles O23: the inverse transform as a sum over the carriers, each at its residue. -/
theorem zcTimeClosedForm : Obligations.ZcTimeClosedForm := by
  intro n m y hadm hy hm
  have : NeZero n := ⟨by omega⟩
  rw [zcTimeExact_getElem? _ hm, Option.some_inj, ← toC_eq_iff, toC_idft_div (swapped_zcSpectrum_length n y)]
  calc ZMod.dft.symm (onResidues n (swapHalves (zcSpectrum n y))) m
      = (n : ℂ)⁻¹ * ∑ j, ZMod.stdAddChar (j * (m : ZMod n)) * onResidues n (swapHalves (zcSpectrum n y)) j := by
        simp only [ZMod.invDFT_apply, smul_eq_mul]
    _ = (n : ℂ)⁻¹ * ∑ i ∈ Finset.range 600,
          ZMod.stdAddChar ((carrierNumber i : ZMod n) * (m : ZMod n)) * toC (y.getD i ⟨0, 0⟩) := by
        rw [sum_swapped_zcSpectrum (le_of_admitted hadm) (even_of_admitted hadm) hy fun j =>
          ZMod.stdAddChar (j * (m : ZMod n))]
    _ = _ := by
        rw [toC_cdivNat, toC_sum, List.map_map, div_eq_inv_mul]
        simp only [← toC_carrierTerm]
        rfl

end Sys2Proof.Machine
end

section
/-!
PROOFS. The 601-point sequence in exact arithmetic (spec 40_zc_sequence_generator R142): each element is a 601st root of
unity, so it depends on its exponent modulo 601 alone.
-/

namespace Sys2Proof.Machine

open Sys2Proof

theorem zcSequence_getD {S R : Type} (ν : Numerics S R) (root : ℕ) {n : ℕ} (hn : n ≤ 600) (d : Cx R) :
    (zcSequence ν root).getD n d = ν.cexpPi (-((root * n * (n + 1) : ℕ) : ℤ)) 601 := by
  have hlt : n < 601 := by omega
  simp [zcSequence, List.getD_eq_getElem?_getD, List.getElem?_range hlt]

theorem exactAbs2_cexp (t : ℝ) : exactAbs2 (cexp t) = 1 := by
  rw [exactAbs2, cexp, ← sq, ← sq, Real.cos_sq_add_sin_sq]

/-- The exponent of element `n`, a whole number because one of `n` and `n + 1` is even (40 R142). -/
def zcExponent (root n : ℕ) : ℕ := root * n * (n + 1) / 2

theorem two_mul_zcExponent (root n : ℕ) : 2 * zcExponent root n = root * n * (n + 1) := by
  refine Nat.mul_div_cancel' ?_
  rw [mul_assoc]
  exact (Nat.even_mul_succ_self n).two_dvd.mul_left root

/-- The exponents of elements `n` and `600 - n` differ by a multiple of 601. -/
theorem zcExponent_reflect (root : ℕ) {n k : ℕ} (h : n + k = 600) :
    (zcExponent root k : ZMod 601) = zcExponent root n := by
  have hn : (2 * zcExponent root n : ℤ) = root * n * (n + 1) := mod_cast two_mul_zcExponent root n
  have hk : (2 * zcExponent root k : ℤ) = root * k * (k + 1) := mod_cast two_mul_zcExponent root k
  have hsum : (k : ℤ) = 600 - n := by omega
  have hdiff : (zcExponent root n : ℤ) - zcExponent root k = 601 * (root * (n - 300)) := by
    refine mul_left_cancel₀ (two_ne_zero' ℤ) ?_
    rw [mul_sub, hn, hk, hsum]
    ring
  have hcast := (ZMod.intCast_eq_intCast_iff_dvd_sub (zcExponent root k) (zcExponent root n) 601).2 ⟨_, hdiff⟩
  simpa using hcast

theorem toC_cexp_neg_turn (q : ℕ) :
    toC (cexp (-(2 * Real.pi * (q : ℝ) / 601))) = ZMod.stdAddChar (-(q : ZMod 601)) := by
  have hturn : -(2 * Real.pi * (q : ℝ) / 601) = 2 * Real.pi * (-(q : ℤ) : ℤ) / (601 : ℕ) := by
    push_cast
    ring
  rw [hturn, toC_cexp_turn, Int.cast_neg, Int.cast_natCast]

/-- Element `n` in exact arithmetic is the 601st root of unity of its exponent, which counts modulo 601 alone. -/
theorem toC_zcSequence (root : ℕ) {n : ℕ} (hn : n ≤ 600) :
    toC ((zcSequence exactNumerics root).getD n ⟨0, 0⟩) = ZMod.stdAddChar (-(zcExponent root n : ZMod 601)) := by
  have hturn : Real.pi * (-((root * n * (n + 1) : ℕ) : ℤ) : ℤ) / (601 : ℕ) =
      -(2 * Real.pi * (zcExponent root n : ℝ) / 601) := by
    rw [← two_mul_zcExponent root n]
    push_cast
    ring
  rw [zcSequence_getD _ _ hn, ← toC_cexp_neg_turn, ← hturn]
  rfl

/-- Settles O22: every element is a `cexp`, of magnitude 1; the other two clauses compare exponents modulo 601. -/
theorem zcSequenceUnitSymmetric : Obligations.ZcSequenceUnitSymmetric := by
  intro root n hn
  refine ⟨zcSequence_length _ _, ?_, ?_, ?_⟩
  · rw [← toC_eq_iff, toC_zcSequence root hn, toC_cexp_neg_turn, ZMod.natCast_mod]
    rfl
  · dsimp only
    rw [zcSequence_getD _ _ hn]
    exact exactAbs2_cexp _
  · dsimp only
    rw [← toC_eq_iff, toC_zcSequence root hn, toC_zcSequence root (Nat.sub_le _ _),
      zcExponent_reflect root (Nat.add_sub_of_le hn)]

end Sys2Proof.Machine
end

section
/-!
PROOFS. The rounding of the time-domain reference is to nearest (spec 40_zc_sequence_generator R143, D10): a value is its
sign times its magnitude in units of `2^-1074`, and of the magnitudes none is nearer than the one chosen.
-/

namespace Sys2Proof.Machine

open Sys2Proof Sys2Proof.Terms

/-! ### Values in units of `2^-1074` -/

/-- The factor a sign bit stands for. -/
def signFactor (bit : ℕ) : ℚ := if bit = 1 then -1 else 1

theorem abs_signFactor (bit : ℕ) : |signFactor bit| = 1 := by
  unfold signFactor
  split <;> simp

/-- The least positive binary64. -/
def leastF64 : ℚ := 2 ^ (-1074 : ℤ)

theorem leastF64_pos : 0 < leastF64 := by
  unfold leastF64
  positivity

/-- A significand at exponent `e + a - 1074` is that many of the least binary64. -/
theorem two_zpow_units (e a : ℕ) : (2 : ℚ) ^ (e + a - 1074 : ℤ) = 2 ^ e * 2 ^ a * leastF64 := by
  rw [leastF64, sub_eq_add_neg, zpow_add₀ two_ne_zero, zpow_add₀ two_ne_zero, zpow_natCast, zpow_natCast]

theorem f64Value_eq_units (x : F64) : f64Value x = signFactor (x.toNat / 2 ^ 63) * f64Units x * leastF64 := by
  unfold f64Value f64Units signFactor
  dsimp only
  generalize x.toNat / 2 ^ 52 % 2 ^ 11 = e
  cases e with
  | zero => rw [if_pos rfl, if_pos rfl, leastF64]
  | succ e =>
    have he : ((e + 1 : ℕ) : ℤ) - 1075 = e + (0 : ℕ) - 1074 := by omega
    rw [if_neg e.succ_ne_zero, if_neg e.succ_ne_zero, he, two_zpow_units, Nat.add_sub_cancel]
    push_cast
    ring

theorem f32Value_eq_units (x : F32) :
    f32Value x = signFactor (x.toNat / 2 ^ 31) * f32Units (x.toNat % 2 ^ 31) * leastF64 := by
  have hexpo : x.toNat % 2 ^ 31 / 2 ^ 23 = x.toNat / 2 ^ 23 % 2 ^ 8 := by omega
  have hfrac : x.toNat % 2 ^ 31 % 2 ^ 23 = x.toNat % 2 ^ 23 := by omega
  unfold f32Value f32Units signFactor
  dsimp only
  rw [hexpo, hfrac]
  generalize x.toNat / 2 ^ 23 % 2 ^ 8 = e
  cases e with
  | zero =>
    have he : (-149 : ℤ) = (0 : ℕ) + (925 : ℕ) - 1074 := by norm_num
    rw [if_pos rfl, if_pos rfl, he, two_zpow_units, pow_zero, one_mul, Nat.cast_mul, Nat.cast_pow,
      Nat.cast_ofNat, mul_assoc, mul_assoc, mul_assoc]
  | succ e =>
    have he : ((e + 1 : ℕ) : ℤ) - 150 = e + (925 : ℕ) - 1074 := by omega
    rw [if_neg e.succ_ne_zero, if_neg e.succ_ne_zero, he, two_zpow_units, Nat.add_sub_cancel]
    simp only [Nat.cast_mul, Nat.cast_add, Nat.cast_pow, Nat.cast_ofNat, mul_assoc]

theorem abs_f64Value (x : F64) : |f64Value x| = f64Units x * leastF64 := by
  rw [f64Value_eq_units, abs_mul, abs_mul, abs_signFactor, one_mul, Nat.abs_cast, abs_of_pos leastF64_pos]

theorem abs_f32Value (x : F32) : |f32Value x| = f32Units (x.toNat % 2 ^ 31) * leastF64 := by
  rw [f32Value_eq_units, abs_mul, abs_mul, abs_signFactor, one_mul, Nat.abs_cast, abs_of_pos leastF64_pos]

/-! ### The pattern of a sign and a magnitude -/

theorem f32Signed_toNat {sign p : ℕ} (hs : sign ≤ 1) (hp : p < 2 ^ 31) : (f32Signed sign p).toNat = sign * 2 ^ 31 + p := by
  rw [f32Signed, BitVec.toNat_ofNat, Nat.mod_eq_of_lt (by omega)]

theorem f32Signed_finite {sign p : ℕ} (hs : sign ≤ 1) (hp : p ≤ 0x7F7FFFFF) : f32Finite (f32Signed sign p) := by
  rw [f32Finite, f32Signed_toNat hs (by omega)]
  omega

theorem f32Value_f32Signed {sign p : ℕ} (hs : sign ≤ 1) (hp : p < 2 ^ 31) :
    f32Value (f32Signed sign p) = signFactor sign * f32Units p * leastF64 := by
  rw [f32Value_eq_units, f32Signed_toNat hs hp, show (sign * 2 ^ 31 + p) / 2 ^ 31 = sign by omega,
    show (sign * 2 ^ 31 + p) % 2 ^ 31 = p by omega]

/-- A value is within the range of the finite binary32 values when its magnitude is. -/
theorem f64Units_le_of_abs_le {x : F64} (h : |f64Value x| ≤ f32Value 0x7F7FFFFF) : f64Units x ≤ f32Units 0x7F7FFFFF := by
  have hmax : f32Value 0x7F7FFFFF = signFactor 0 * f32Units 0x7F7FFFFF * leastF64 :=
    f32Value_f32Signed (sign := 0) (p := 0x7F7FFFFF) (by omega) (by omega)
  have hplus : signFactor 0 = 1 := rfl
  rw [abs_f64Value, hmax, hplus, one_mul] at h
  exact Nat.cast_le.1 (le_of_mul_le_mul_right h leastF64_pos)

/-! ### No magnitude is nearer -/

/-- Of the two candidates the nearer one is as near as any magnitude: those below the value end at the lower candidate,
those above begin at the upper one. -/
theorem f32Units_nearest {m p : ℕ}
    (h : (p = f32Below m ∧ m - f32Units p ≤ f32Units (p + 1) - m) ∨
      (p = f32Below m + 1 ∧ f32Units p - m ≤ m - f32Units (f32Below m))) (q : ℕ) :
    ((f32Units p : ℤ) - m).natAbs ≤ ((f32Units q : ℤ) - m).natAbs := by
  obtain ⟨hbelow, habove⟩ := f32Below_spec m
  have hq : f32Units q ≤ f32Units (f32Below m) ∨ f32Units (f32Below m + 1) ≤ f32Units q := by
    rcases Nat.lt_or_ge (f32Below m) q with hlt | hge
    · exact .inr (f32Units_strictMono.monotone hlt)
    · exact .inl (f32Units_strictMono.monotone hge)
  rcases h with ⟨rfl, hnear⟩ | ⟨rfl, hnear⟩ <;> omega

theorem abs_natCast_sub_le {a b m : ℕ} (h : ((a : ℤ) - m).natAbs ≤ ((b : ℤ) - m).natAbs) :
    |(a : ℚ) - m| ≤ |(b : ℚ) - m| := by
  have habs : |(a : ℤ) - m| ≤ |(b : ℤ) - m| := by rwa [Int.abs_eq_natAbs, Int.abs_eq_natAbs, Nat.cast_le]
  exact_mod_cast habs

/-- Settles O21: the result has the sign of the operand, so that their distance is that of their magnitudes; a finite
binary32 is at least as far as its magnitude is. -/
theorem roundingIsToNearest : Obligations.RoundingIsToNearest := by
  intro free x hx hrange
  obtain ⟨p, hp, hround, hnear⟩ := roundNearest_cases free x hx (f64Units_le_of_abs_le hrange)
  have hs : x.toNat / 2 ^ 63 ≤ 1 := by omega
  rw [hround]
  refine ⟨f32Signed_finite hs hp, fun y _ => ?_⟩
  have hunits : |(f32Units p : ℚ) - f64Units x| ≤ |(f32Units (y.toNat % 2 ^ 31) : ℚ) - f64Units x| :=
    abs_natCast_sub_le (f32Units_nearest hnear _)
  have hscale : |leastF64| = leastF64 := abs_of_pos leastF64_pos
  calc |f32Value (f32Signed (x.toNat / 2 ^ 63) p) - f64Value x|
      = |(f32Units p : ℚ) - f64Units x| * leastF64 := by
        rw [f32Value_f32Signed hs (by omega), f64Value_eq_units, ← sub_mul, ← mul_sub, abs_mul, abs_mul, abs_signFactor,
          one_mul, hscale]
    _ ≤ |(f32Units (y.toNat % 2 ^ 31) : ℚ) - f64Units x| * leastF64 := mul_le_mul_of_nonneg_right hunits leastF64_pos.le
    _ = |(|f32Value y| - |f64Value x|)| := by
        rw [abs_f32Value, abs_f64Value, ← sub_mul, abs_mul, hscale]
    _ ≤ |f32Value y - f64Value x| := abs_abs_sub_abs_le _ _

end Sys2Proof.Machine
end

section
/-!
PROOFS. Samples in exact arithmetic (spec 00_scope R11) as a complex vector: the operations of the correlator read in
Mathlib's inner product space, taking the mean off being the projection off the constant vectors.
-/

namespace Sys2Proof.Machine

open Sys2Proof

/-! ### Samples as vectors -/

@[simp] theorem widenC_exactNumerics (z : Cx ℝ) : widenC exactNumerics z = z := rfl

theorem map_widenC_exactNumerics (x : List (Cx ℝ)) : x.map (widenC exactNumerics) = x := List.map_id x

/-- The first `n` samples as a vector. -/
noncomputable def sampleVec (n : ℕ) (x : List (Cx ℝ)) : EuclideanSpace ℂ (Fin n) :=
  WithLp.toLp 2 fun k => toC (x.getD k ⟨0, 0⟩)

@[simp] theorem sampleVec_apply (n : ℕ) (x : List (Cx ℝ)) (k : Fin n) : sampleVec n x k = toC (x.getD k ⟨0, 0⟩) := rfl

/-- The constant vector 1. -/
noncomputable def onesVec (n : ℕ) : EuclideanSpace ℂ (Fin n) := WithLp.toLp 2 fun _ => 1

@[simp] theorem onesVec_apply (n : ℕ) (k : Fin n) : onesVec n k = 1 := rfl

theorem norm_sq_onesVec (n : ℕ) : ‖onesVec n‖ ^ 2 = n := by
  simp [EuclideanSpace.norm_sq_eq]

section Vectors

variable {n : ℕ} {x y : List (Cx ℝ)}

theorem sampleVec_map_apply (hx : x.length = n) (f : Cx ℝ → Cx ℝ) (k : Fin n) :
    sampleVec n (x.map f) k = toC (f (x.getD k ⟨0, 0⟩)) := by
  have hk : (k : ℕ) < x.length := hx ▸ k.isLt
  simp [hk]

theorem sampleVec_csub (hx : x.length = n) (m : Cx ℝ) :
    sampleVec n (x.map fun z => exactNumerics.csub z m) = sampleVec n x - toC m • onesVec n := by
  ext k
  rw [sampleVec_map_apply hx]
  simp

theorem sampleVec_mul (hx : x.length = n) (c : Cx ℝ) :
    sampleVec n (x.map fun z => exactMul c z) = toC c • sampleVec n x := by
  ext k
  rw [sampleVec_map_apply hx]
  simp

theorem sampleVec_mul_cadd (hx : x.length = n) (c b : Cx ℝ) :
    sampleVec n (x.map fun z => exactNumerics.cadd (exactMul c z) b) = toC c • sampleVec n x + toC b • onesVec n := by
  ext k
  rw [sampleVec_map_apply hx]
  simp

theorem energy_eq_norm_sq (hx : x.length = n) : exactNumerics.energy x = ‖sampleVec n x‖ ^ 2 := by
  subst hx
  calc exactNumerics.energy x = ∑ k : Fin x.length, exactAbs2 x[(k : ℕ)] := (Fin.sum_univ_fun_getElem x exactAbs2).symm
    _ = ‖sampleVec x.length x‖ ^ 2 := by
        simp [EuclideanSpace.norm_sq_eq, exactAbs2_eq, Complex.normSq_eq_norm_sq]

theorem inner_onesVec (hx : x.length = n) : inner ℂ (onesVec n) (sampleVec n x) = toC (exactSum x) := by
  subst hx
  rw [toC_sum, ← Fin.sum_univ_fun_getElem]
  simp [PiLp.inner_apply]

theorem toC_dot (l : List (Cx ℝ × Cx ℝ)) :
    toC (exactNumerics.dot l) = (l.map fun p => toC p.1 * toC p.2).sum := by
  calc toC (exactNumerics.dot l) = toC (exactSum (l.map fun p => exactMul p.1 p.2)) := rfl
    _ = _ := by simp [Function.comp_def]

/-- The multiply-accumulate with conjugated taps is the inner product. -/
theorem toC_dot_conj (hx : x.length = n) (hy : y.length = n) :
    toC (exactNumerics.dot (x.zip (y.map exactNumerics.conj))) = inner ℂ (sampleVec n y) (sampleVec n x) := by
  have hlen : (x.zip (y.map exactNumerics.conj)).length = n := by simp [hx, hy]
  have hk (k : Fin n) : (k : ℕ) < x.length ∧ (k : ℕ) < y.length := by omega
  subst hlen
  rw [toC_dot, ← Fin.sum_univ_fun_getElem, PiLp.inner_apply]
  refine Finset.sum_congr rfl fun k _ => ?_
  obtain ⟨hkx, hky⟩ := hk k
  simp [hkx, hky]

end Vectors

/-! ### Taking the mean off -/

/-- The projection off the constant vectors. -/
noncomputable def centre (n : ℕ) : EuclideanSpace ℂ (Fin n) →L[ℂ] EuclideanSpace ℂ (Fin n) :=
  (ℂ ∙ onesVec n)ᗮ.starProjection

theorem centre_apply (n : ℕ) (v : EuclideanSpace ℂ (Fin n)) :
    centre n v = v - (inner ℂ (onesVec n) v / n) • onesVec n := by
  rw [centre, Submodule.starProjection_orthogonal_val, Submodule.starProjection_singleton, norm_sq_onesVec]
  rfl

theorem centre_onesVec (n : ℕ) : centre n (onesVec n) = 0 :=
  Submodule.starProjection_orthogonalComplement_singleton_eq_zero _

theorem inner_centre_centre {n : ℕ} (u v : EuclideanSpace ℂ (Fin n)) :
    inner ℂ (centre n u) (centre n v) = inner ℂ (centre n u) v := by
  rw [centre, ← Submodule.inner_starProjection_left_eq_right,
    Submodule.starProjection_eq_self_iff.2 (Submodule.starProjection_apply_mem _ u)]

theorem norm_centre_le {n : ℕ} (v : EuclideanSpace ℂ (Fin n)) : ‖centre n v‖ ≤ ‖v‖ :=
  Submodule.norm_starProjection_apply_le _ v

/-- The variance two ways: the energy of the deviations is the energy less that of the mean (R164). -/
theorem norm_sq_centre (n : ℕ) (v : EuclideanSpace ℂ (Fin n)) :
    ‖centre n v‖ ^ 2 = ‖v‖ ^ 2 - n * ‖inner ℂ (onesVec n) v / n‖ ^ 2 := by
  have hsplit := Submodule.norm_sq_eq_add_norm_sq_starProjection v (ℂ ∙ onesVec n)
  have hmean : (ℂ ∙ onesVec n).starProjection v = (inner ℂ (onesVec n) v / n) • onesVec n := by
    rw [← sub_sub_cancel v ((ℂ ∙ onesVec n).starProjection v), ← Submodule.starProjection_orthogonal_val, ← centre,
      centre_apply, sub_sub_cancel]
  rw [hmean, norm_smul, mul_pow, norm_sq_onesVec] at hsplit
  rw [hsplit, centre]
  ring

/-- The deviations the score is made of: from the mean, or the samples themselves where the mean is not removed. -/
noncomputable def deviation (meanRemove : Bool) {n : ℕ} (v : EuclideanSpace ℂ (Fin n)) : EuclideanSpace ℂ (Fin n) :=
  if meanRemove then centre n v else v

theorem deviation_smul (mr : Bool) {n : ℕ} (c : ℂ) (v : EuclideanSpace ℂ (Fin n)) :
    deviation mr (c • v) = c • deviation mr v := by
  cases mr
  · rfl
  · exact (centre n).map_smul c v

theorem inner_centre_deviation (mr : Bool) {n : ℕ} (u v : EuclideanSpace ℂ (Fin n)) :
    inner ℂ (centre n u) (deviation mr v) = inner ℂ (centre n u) v := by
  cases mr
  · rfl
  · exact inner_centre_centre u v

theorem sampleVec_centred {n : ℕ} {x : List (Cx ℝ)} (hx : x.length = n) :
    sampleVec n (x.map fun z => exactNumerics.csub z (exactNumerics.cdivNat (exactNumerics.csum x) n)) =
      centre n (sampleVec n x) := by
  rw [sampleVec_csub hx, centre_apply, inner_onesVec hx, toC_cdivNat]
  rfl

end Sys2Proof.Machine
end

section
/-!
PROOFS. The ideal score of spec 41_cross_correlator R162 in exact arithmetic: the squared cosine of the angle between the
centred reference and the deviations of the window, from which its range and its invariances follow (R167 to R169).
-/

namespace Sys2Proof.Machine

open Sys2Proof

/-! ### The taps and their variance (R160) -/

theorem centred_exactNumerics (ref : List (Cx ℝ)) :
    centred exactNumerics ref =
      ref.map fun z => exactNumerics.csub z (exactNumerics.cdivNat (exactNumerics.csum ref) ref.length) := by
  simp only [centred, map_widenC_exactNumerics]

theorem centred_exactNumerics_length (ref : List (Cx ℝ)) : (centred exactNumerics ref).length = ref.length := by
  rw [centred_exactNumerics, List.length_map]

theorem sampleVec_centred_ref (ref : List (Cx ℝ)) :
    sampleVec ref.length (centred exactNumerics ref) = centre ref.length (sampleVec ref.length ref) := by
  rw [centred_exactNumerics, sampleVec_centred rfl]

theorem xcorrTaps_exactNumerics (ref : List (Cx ℝ)) :
    xcorrTaps exactNumerics ref = (centred exactNumerics ref).map exactNumerics.conj := rfl

theorem xcorrTaps_length {S R : Type} (ν : Numerics S R) (ref : List (Cx S)) :
    (xcorrTaps ν ref).length = ref.length := by
  simp [xcorrTaps, centred]

/-- `TAPS_VAR` is the mean energy of the reference without its mean (R160). -/
theorem xcorrTapsVar_exactNumerics (ref : List (Cx ℝ)) :
    xcorrTapsVar exactNumerics ref = ‖centre ref.length (sampleVec ref.length ref)‖ ^ 2 / ref.length := by
  rw [xcorrTapsVar, energy_eq_norm_sq (centred_exactNumerics_length ref), sampleVec_centred_ref]
  rfl

/-! ### The score as a squared cosine -/

/-- The squared cosine of the angle between two vectors, 0 where one of them is 0. -/
noncomputable def similarity {n : ℕ} (u v : EuclideanSpace ℂ (Fin n)) : ℝ := ‖inner ℂ u v‖ ^ 2 / (‖u‖ ^ 2 * ‖v‖ ^ 2)

section Similarity

variable {n : ℕ} (u v : EuclideanSpace ℂ (Fin n))

theorem similarity_nonneg : 0 ≤ similarity u v := by
  unfold similarity
  positivity

theorem similarity_le_one : similarity u v ≤ 1 := by
  refine div_le_one_of_le₀ ?_ (by positivity)
  rw [← mul_pow]
  exact pow_le_pow_left₀ (norm_nonneg _) (norm_inner_le_norm u v) 2

theorem similarity_smul {c : ℂ} (hc : c ≠ 0) : similarity u (c • v) = similarity u v := by
  have hnorm : ‖c‖ ^ 2 ≠ 0 := pow_ne_zero 2 (norm_ne_zero_iff.2 hc)
  rw [similarity, similarity, inner_smul_right, norm_mul, norm_smul, mul_pow, mul_pow, mul_left_comm,
    mul_div_mul_left _ _ hnorm]

theorem similarity_self {u : EuclideanSpace ℂ (Fin n)} (hu : u ≠ 0) : similarity u u = 1 := by
  have hnorm : ‖u‖ ^ 2 * ‖u‖ ^ 2 ≠ 0 := by simpa using hu
  have hinner : ‖inner ℂ u u‖ = ‖u‖ ^ 2 := by rw [inner_self_eq_norm_sq_to_K, norm_pow, RCLike.norm_ofReal, abs_norm]
  rw [similarity, hinner, sq (‖u‖ ^ 2), div_self hnorm]

/-- Removing the mean shortens the vector and leaves the inner product with a centred one. -/
theorem similarity_centre_le : similarity (centre n u) v ≤ similarity (centre n u) (centre n v) := by
  rcases eq_or_ne (‖centre n u‖ ^ 2 * ‖centre n v‖ ^ 2) 0 with h0 | h0
  · have hinner : inner ℂ (centre n u) v = 0 := by
      rw [← inner_centre_centre]
      rcases mul_eq_zero.1 h0 with hu | hv
      · rw [norm_eq_zero.1 (pow_eq_zero_iff two_ne_zero |>.1 hu), inner_zero_left]
      · rw [norm_eq_zero.1 (pow_eq_zero_iff two_ne_zero |>.1 hv), inner_zero_right]
    rw [similarity, hinner, norm_zero, sq, zero_mul, zero_div]
    exact similarity_nonneg _ _
  · rw [similarity, similarity, inner_centre_centre]
    have hle : ‖centre n u‖ ^ 2 * ‖centre n v‖ ^ 2 ≤ ‖centre n u‖ ^ 2 * ‖v‖ ^ 2 := by
      gcongr
      exact norm_centre_le v
    exact div_le_div_of_nonneg_left (by positivity) (lt_of_le_of_ne (by positivity) h0.symm) hle

end Similarity

theorem isZero_mul_exactNumerics (a b : ℝ) : exactNumerics.isZero (exactNumerics.mul a b) = true ↔ a * b = 0 :=
  decide_eq_true_iff

/-- Mathlib's quotient by 0 is 0, so that R165 needs no case of its own. -/
theorem normalizedScore_exactNumerics (len : ℕ) (tv : ℝ) (dot : Cx ℝ) (v : ℝ) :
    normalizedScore exactNumerics len tv dot v = ‖toC dot‖ ^ 2 / ((len * len : ℕ) * tv * v) := by
  have hdiv : exactNumerics.div (exactNumerics.abs2 dot)
      (exactNumerics.mul (exactNumerics.mul (exactNumerics.ofNat (len * len)) tv) v) =
        ‖toC dot‖ ^ 2 / ((len * len : ℕ) * tv * v) := by
    rw [← Complex.normSq_eq_norm_sq, ← exactAbs2_eq]
    rfl
  by_cases h : tv * v = 0
  · rw [normalizedScore, if_pos ((isZero_mul_exactNumerics _ _).2 h), mul_assoc, h, mul_zero, div_zero]
  · rw [normalizedScore, if_neg (mt (isZero_mul_exactNumerics _ _).1 h), hdiv]

section Reference

variable {ref x : List (Cx ℝ)}

/-- With the taps of a reference, a score whose dot product and variance are those of the deviations is the similarity of
the centred reference to the deviations. -/
theorem normalizedScore_eq_similarity (href : ref ≠ []) {v : EuclideanSpace ℂ (Fin ref.length)} {dot : Cx ℝ} {var : ℝ}
    (hdot : toC dot = inner ℂ (centre _ (sampleVec ref.length ref)) v) (hvar : var = ‖v‖ ^ 2 / ref.length) :
    normalizedScore exactNumerics ref.length (xcorrTapsVar exactNumerics ref) dot var =
      similarity (centre _ (sampleVec ref.length ref)) v := by
  have hlen : (ref.length : ℝ) ≠ 0 := by simpa using href
  rw [normalizedScore_exactNumerics, xcorrTapsVar_exactNumerics, hdot, hvar, similarity, Nat.cast_mul]
  congr 1
  field_simp

/-- The multiply-accumulate with the taps (R162, R163). -/
theorem toC_dot_taps (hx : x.length = ref.length) :
    toC (exactNumerics.dot (x.zip (xcorrTaps exactNumerics ref))) =
      inner ℂ (centre _ (sampleVec ref.length ref)) (sampleVec ref.length x) := by
  rw [xcorrTaps_exactNumerics, toC_dot_conj hx (centred_exactNumerics_length ref), sampleVec_centred_ref]

/-- The deviations of a window as R162 writes them. -/
theorem sampleVec_deviation (mr : Bool) {n : ℕ} (hx : x.length = n) :
    sampleVec n (x.map fun z => exactNumerics.csub z
      (if mr then exactNumerics.cdivNat (exactNumerics.csum x) n else Cx.zero)) = deviation mr (sampleVec n x) := by
  cases mr
  · have hzero : toC Cx.zero = 0 := rfl
    simp [sampleVec_csub hx, hzero, deviation]
  · exact sampleVec_centred hx

/-- The ideal score of R162 is the squared cosine between the centred reference and the deviations of the window. -/
theorem directScore_eq_similarity (mr : Bool) (href : ref ≠ []) (hx : x.length = ref.length) :
    directScore exactNumerics mr (xcorrTaps exactNumerics ref) (xcorrTapsVar exactNumerics ref) ref.length x =
      similarity (centre _ (sampleVec ref.length ref)) (deviation mr (sampleVec ref.length x)) := by
  simp only [directScore, map_widenC_exactNumerics]
  refine normalizedScore_eq_similarity href ?_ ?_
  · rw [toC_dot_taps ((List.length_map _).trans hx), sampleVec_deviation mr hx]
  · rw [energy_eq_norm_sq ((List.length_map _).trans hx), sampleVec_deviation mr hx]
    rfl

end Reference

/-- Settles O29: the score is a squared cosine, and taking the mean off shortens the window but not its product with the
centred reference. -/
theorem scoreRange : Obligations.ScoreRange := by
  intro ref x href hx
  dsimp only
  rw [directScore_eq_similarity _ href hx, directScore_eq_similarity _ href hx]
  exact ⟨similarity_nonneg _ _, similarity_centre_le _ _, similarity_le_one _ _⟩

/-- A multiple of the reference, plus a constant where the mean is removed, deviates by that multiple of the centred
reference. -/
theorem deviation_multiple {n : ℕ} {ref : List (Cx ℝ)} (hn : ref.length = n) (mr : Bool) (c : ℂ) (b : Cx ℝ)
    (h : mr = true ∨ (b = ⟨0, 0⟩ ∧ exactSum ref = ⟨0, 0⟩)) :
    deviation mr (c • sampleVec n ref + toC b • onesVec n) = c • centre n (sampleVec n ref) := by
  cases mr
  · obtain ⟨rfl, hsum⟩ := h.resolve_left Bool.false_ne_true
    rw [centre_apply, inner_onesVec hn, hsum, toC_zero, zero_div, zero_smul, add_zero, sub_zero]
    rfl
  · rw [deviation, if_pos rfl, map_add, map_smul, map_smul, centre_onesVec, smul_zero, add_zero]

/-- Settles O30: the deviations of such a window are a nonzero multiple of the centred reference, and a squared cosine does
not see a nonzero factor. -/
theorem scoreSelfMatchAndScale : Obligations.ScoreSelfMatchAndScale := by
  intro mr ref c href hc
  have hfactor : toC c ≠ 0 := fun h => hc (toC_injective h)
  refine ⟨fun b hvar hb => ?_, fun x hx => ?_⟩
  · have hcentred : centre _ (sampleVec ref.length ref) ≠ 0 := by
      intro h
      rw [xcorrTapsVar_exactNumerics, h] at hvar
      simp at hvar
    dsimp only
    rw [directScore_eq_similarity mr href (List.length_map _), sampleVec_mul_cadd rfl, deviation_multiple rfl mr _ b hb,
      similarity_smul _ _ hfactor, similarity_self hcentred]
  · dsimp only
    rw [directScore_eq_similarity mr href ((List.length_map _).trans hx), directScore_eq_similarity mr href hx,
      sampleVec_mul hx, deviation_smul, similarity_smul _ _ hfactor]

end Sys2Proof.Machine
end

section
/-!
PROOFS. The running sums of spec 41_cross_correlator R163, R164 in exact arithmetic: they stay the sums of the window scored
next, and the variance made of them is the mean energy of the window's deviations.
-/

namespace Sys2Proof.Machine

open Sys2Proof

theorem windowScore_exactNumerics (taps : List (Cx ℝ)) (tv : ℝ) (w : Window ℝ) (x : List (Cx ℝ)) :
    windowScore exactNumerics taps tv w x =
      normalizedScore exactNumerics taps.length tv (exactNumerics.dot (x.zip taps))
        (exactNumerics.sub (exactNumerics.divNat w.energy taps.length)
          (exactNumerics.abs2 (w.mean exactNumerics taps.length))) := by
  simp only [windowScore, map_widenC_exactNumerics]
  split
  · next h => rw [normalizedScore, if_pos h]
  · rfl

/-- The variance of R164 from the sums of a window is the mean energy of its deviations, the variance of R162. -/
theorem variance_first (mr : Bool) {n : ℕ} (hn : n ≠ 0) {x : List (Cx ℝ)} (hx : x.length = n) :
    exactNumerics.sub (exactNumerics.divNat (Window.first exactNumerics mr x).energy n)
      (exactNumerics.abs2 ((Window.first exactNumerics mr x).mean exactNumerics n)) =
        ‖deviation mr (sampleVec n x)‖ ^ 2 / n := by
  have henergy : (Window.first exactNumerics mr x).energy = ‖sampleVec n x‖ ^ 2 := energy_eq_norm_sq hx
  cases mr
  · calc _ = (Window.first exactNumerics false x).energy / n - (0 * 0 + 0 * 0) := rfl
      _ = _ := by rw [henergy, mul_zero, add_zero, sub_zero]; rfl
  · calc _ = (Window.first exactNumerics true x).energy / n -
            exactAbs2 (exactNumerics.cdivNat (exactSum x) n) := rfl
      _ = ‖centre n (sampleVec n x)‖ ^ 2 / n := by
        rw [henergy, exactAbs2_eq, Complex.normSq_eq_norm_sq, toC_cdivNat, ← inner_onesVec hx, norm_sq_centre]
        have hcast : (n : ℝ) ≠ 0 := Nat.cast_ne_zero.2 hn
        field_simp

/-- Scored with its own sums, a window of the reference's length has its ideal score (R162). -/
theorem windowScore_first (mr : Bool) {ref x : List (Cx ℝ)} (href : ref ≠ []) (hx : x.length = ref.length) :
    windowScore exactNumerics (xcorrTaps exactNumerics ref) (xcorrTapsVar exactNumerics ref)
      (Window.first exactNumerics mr x) x =
        directScore exactNumerics mr (xcorrTaps exactNumerics ref) (xcorrTapsVar exactNumerics ref) ref.length x := by
  rw [directScore_eq_similarity mr href hx, windowScore_exactNumerics, xcorrTaps_length]
  exact normalizedScore_eq_similarity href ((toC_dot_taps hx).trans (inner_centre_deviation mr _ _).symm)
    (variance_first mr (by simpa using href) hx)

theorem exactSum_slide (leaving arriving : Cx ℝ) (rest : List (Cx ℝ)) :
    exactNumerics.csub (exactNumerics.cadd (exactSum (leaving :: rest)) arriving) leaving =
      exactSum (rest ++ [arriving]) := by
  rw [← toC_eq_iff]
  simp only [toC_csub, toC_cadd, toC_sum, List.map_cons, List.map_append, List.sum_cons, List.sum_append, List.map_nil,
    List.sum_nil]
  ring

/-- The running-sum update makes the sums of the next window from those of this one (R163). -/
theorem Window.slide_first (mr : Bool) (leaving arriving : Cx ℝ) (rest : List (Cx ℝ)) :
    (Window.first exactNumerics mr (leaving :: rest)).slide exactNumerics arriving leaving =
      Window.first exactNumerics mr (rest ++ [arriving]) := by
  have henergy : exactNumerics.sub (exactNumerics.add (exactNumerics.energy (leaving :: rest))
      (exactNumerics.abs2 arriving)) (exactNumerics.abs2 leaving) = exactNumerics.energy (rest ++ [arriving]) := by
    simp only [exactNumerics, List.map_cons, List.map_append, List.sum_cons, List.sum_append, List.map_nil, List.sum_nil]
    ring
  simp only [Window.slide, Window.first, henergy]
  cases mr
  · rfl
  · exact congrArg (fun t => Window.mk _ (some t)) (exactSum_slide leaving arriving rest)

/-- The loop of R163 gives every window the score its own sums give, if it starts with the sums of the first window. -/
theorem xcorrLoop_exactNumerics (mr : Bool) {taps : List (Cx ℝ)} (htaps : taps ≠ []) (tv : ℝ) (x : List (Cx ℝ))
    (w : Option (Window ℝ))
    (hw : startWindow exactNumerics mr taps x w = Window.first exactNumerics mr (x.take taps.length)) :
    (xcorrLoop exactNumerics mr taps tv x w).1 = (List.range (x.length - taps.length)).map fun i =>
      windowScore exactNumerics taps tv (Window.first exactNumerics mr ((x.drop i).take taps.length))
        ((x.drop i).take taps.length) := by
  induction x generalizing w with
  | nil => simp [xcorrLoop_nil]
  | cons x xs ih =>
    by_cases h : (x :: xs).length ≤ taps.length
    · rw [xcorrLoop_short _ _ _ _ _ _ h, Nat.sub_eq_zero_of_le h]
      rfl
    · obtain ⟨m, hm⟩ : ∃ m, taps.length = m + 1 := Nat.exists_eq_succ_of_ne_zero (by simpa using htaps)
      rw [List.length_cons, hm] at h
      have hlt : m < xs.length := by omega
      have harriving : (x :: xs)[taps.length]? = some xs[m] := by
        rw [hm, List.getElem?_cons_succ, List.getElem?_eq_getElem hlt]
      have hnext : (Window.first exactNumerics mr ((x :: xs).take taps.length)).slide exactNumerics xs[m] x =
          Window.first exactNumerics mr (xs.take taps.length) := by
        rw [hm, List.take_succ_cons, Window.slide_first, List.take_append_getElem]
      have hlen : (x :: xs).length - taps.length = xs.length - taps.length + 1 := by
        rw [List.length_cons, hm]
        omega
      rw [xcorrLoop_step _ _ _ _ _ _ _ _ harriving, hlen, List.range_succ_eq_map, List.map_cons, List.map_map, hw]
      exact congrArg₂ _ rfl (ih _ hnext)

/-- Settles O28: the running sums stay those of the window scored next, and with its own sums a window has its ideal
score. -/
theorem scoresAreIdeal : Obligations.ScoresAreIdeal := by
  intro mr ref x href
  have htaps : xcorrTaps exactNumerics ref ≠ [] := by
    rw [ne_eq, ← List.length_eq_zero_iff, xcorrTaps_length]
    simpa using href
  have hstart : startWindow exactNumerics mr (xcorrTaps exactNumerics ref) x none =
      Window.first exactNumerics mr (x.take (xcorrTaps exactNumerics ref).length) := by
    rw [startWindow, map_widenC_exactNumerics]
    rfl
  dsimp only
  rw [xcorrLoop_exactNumerics mr htaps _ x none hstart, xcorrTaps_length]
  refine List.map_congr_left fun i hi => ?_
  rw [List.mem_range] at hi
  exact windowScore_first mr href (by rw [List.length_take, List.length_drop]; omega)

end Sys2Proof.Machine
end

section
/-!
PROOFS. The operations of the correlator when `READY` (spec 41_cross_correlator R160, R163): the registers they
write, the scores returned, and how a stream may be cut into calls.
-/

namespace Sys2Proof.Machine

open Sys2Proof

section Ready

variable {s : State} {r : Regs}

theorem exec_xcorrInit_ready (hs : s.inst = .ready r) (ref : List C32) :
    exec (.xcorrInit ref) s = .next ((s.withRegs (r.xcorrInit Config.params ref)).withReply .done) :=
  directOp_ready hs

theorem exec_xcorrPush_ready (hs : s.inst = .ready r) (samples : List C32) (readPos : U64) :
    exec (.xcorrPush samples readPos) s =
      .next ((s.withRegs (r.xcorrPush Config.params samples readPos).1).withReply
        (.scores (r.xcorrPush Config.params samples readPos).2)) :=
  directOp_ready hs

end Ready

/-! ### `XCORR_INIT` -/

section Init

variable {S R : Type} (ν : Numerics S R) (ref : List (Cx S))

theorem centred_eq_map :
    centred ν ref =
      (ref.map (widenC ν)).map fun z => ν.csub z (ν.cdivNat (ν.csum (ref.map (widenC ν))) ref.length) := by
  simp only [centred, List.length_map]

theorem xcorrTaps_eq_map :
    xcorrTaps ν ref = (ref.map (widenC ν)).map fun z =>
      narrowC ν (ν.conj (ν.csub z (ν.cdivNat (ν.csum (ref.map (widenC ν))) ref.length))) := by
  rw [xcorrTaps, centred_eq_map, List.map_map]
  rfl

end Init

/-- Settles O25: the two registers as R160 writes them; everything else is the state's frame. -/
theorem xcorrInitResult : Obligations.XcorrInitResult := by
  intro s r ref hs
  rw [exec_xcorrInit_ready hs, Regs.xcorrInit, xcorrTaps_eq_map, xcorrTapsVar, centred_eq_map]
  rfl

/-! ### `XCORR_PUSH` -/

/-- The scores of a call and the running sums it leaves: the loop on the samples from the first window not scored. -/
def Regs.pushLoop (P : Params) (r : Regs) (samples : List C32) : List F32 × Option (Window HReal) :=
  xcorrLoop P.numerics P.xcMeanRemove r.taps r.tapsVar ((r.hist ++ samples).drop r.xcNext) r.window

section Push

variable (P : Params) (r : Regs) (samples : List C32) (readPos : U64)

theorem Regs.xcorrPush_scores : (r.xcorrPush P samples readPos).2 = (r.pushLoop P samples).1 := rfl

theorem Regs.xcorrPush_regs :
    (r.xcorrPush P samples readPos).1 = { r with
      t0 := if r.hist = [] then some readPos else r.t0
      hist := r.hist ++ samples
      xcNext := r.xcNext + (r.pushLoop P samples).1.length
      winEnergy := (r.pushLoop P samples).2.map (·.energy)
      winSum := (r.pushLoop P samples).2.bind (·.sum) } := by
  have ht0 : (if r.xcCount = 0 then some readPos else r.t0) = if r.hist = [] then some readPos else r.t0 :=
    if_congr List.length_eq_zero_iff rfl rfl
  rw [← ht0]
  rfl

/-- The two registers of the running sums hold them exactly. -/
theorem Regs.xcorrPush_window : (r.xcorrPush P samples readPos).1.window = (r.pushLoop P samples).2 := by
  rw [Regs.xcorrPush_regs, Regs.window]
  cases (r.pushLoop P samples).2 <;> rfl

/-- As many scores as have become computable (R163 (a), R166). -/
theorem Regs.pushLoop_length :
    (r.pushLoop P samples).1.length = r.hist.length + samples.length - r.taps.length - r.xcNext := by
  rw [Regs.pushLoop, xcorrLoop_length, List.length_drop, List.length_append]
  omega

/-- The score of a window with its one exception (R163, R165). -/
theorem windowScore_eq {S R : Type} [OfNat S 0] [OfNat R 0] (ν : Numerics S R) (taps : List (Cx S)) (tv : R)
    (w : Window R) (x : List (Cx S)) :
    windowScore ν taps tv w x =
      let len := taps.length
      let dot := ν.dot ((x.map (widenC ν)).zip (taps.map (widenC ν)))
      let v := ν.sub (ν.divNat w.energy len) (ν.abs2 (w.mean ν len))
      if ν.isZero (ν.mul tv v) then 0
      else ν.narrow (ν.div (ν.abs2 dot) (ν.mul (ν.mul (ν.ofNat (len * len)) tv) v)) := by
  unfold windowScore
  dsimp only
  split
  · rfl
  · next h => rw [normalizedScore, if_neg h]

/-- The running sums the loop starts with, register by register (R163). -/
theorem Regs.window_getD_first (window : List C64) :
    r.window.getD (Window.first P.numerics P.xcMeanRemove window) =
      ⟨r.winEnergy.getD (P.numerics.energy window),
        if r.winEnergy.isSome then r.winSum else if P.xcMeanRemove then some (P.numerics.csum window) else none⟩ := by
  rw [Regs.window]
  cases r.winEnergy <;> rfl

/-- One window held and one sample arriving: one turn of the loop (R163). -/
theorem Regs.pushLoop_single {x leaving : C32} {rest : List C32} (hwin : r.hist.drop r.xcNext = leaving :: rest)
    (htaps : r.taps.length = rest.length + 1) :
    r.pushLoop P [x] =
      let w := r.window.getD (Window.first P.numerics P.xcMeanRemove ((leaving :: rest).map (widenC P.numerics)))
      ([windowScore P.numerics r.taps r.tapsVar w (leaving :: rest)],
        some (w.slide P.numerics (widenC P.numerics x) (widenC P.numerics leaving))) := by
  have hle : r.xcNext ≤ r.hist.length := by
    by_contra hlt
    rw [List.drop_eq_nil_of_le (by omega)] at hwin
    exact List.cons_ne_nil _ _ hwin.symm
  have harriving : (leaving :: (rest ++ [x]))[r.taps.length]? = some x := by simp [htaps]
  have htake : (leaving :: (rest ++ [x])).take r.taps.length = leaving :: rest := by simp [htaps]
  have hshort (w : Option (Window HReal)) :
      xcorrLoop P.numerics P.xcMeanRemove r.taps r.tapsVar (rest ++ [x]) w = ([], w) :=
    xcorrLoop_short _ _ _ _ _ _ (by simp [htaps])
  rw [Regs.pushLoop, List.drop_append_of_le_length hle, hwin, List.cons_append,
    xcorrLoop_step _ _ _ _ _ _ _ _ harriving]
  simp only [startWindow, htake, hshort]

/-- A block cut in two: the scores of the first part, then those of the rest on the registers it left. -/
theorem Regs.pushLoop_append (ys : List C32) :
    r.pushLoop P (samples ++ ys) =
      ((r.pushLoop P samples).1 ++ ((r.xcorrPush P samples readPos).1.pushLoop P ys).1,
        ((r.xcorrPush P samples readPos).1.pushLoop P ys).2) := by
  have hcut : (r.hist ++ (samples ++ ys)).drop r.xcNext =
      (r.hist ++ samples).drop r.xcNext ++ ys.drop (r.xcNext - (r.hist ++ samples).length) := by
    rw [← List.append_assoc, List.drop_append]
  have hrest : (r.xcorrPush P samples readPos).1.pushLoop P ys =
      xcorrLoop P.numerics P.xcMeanRemove r.taps r.tapsVar
        (((r.hist ++ (samples ++ ys)).drop r.xcNext).drop (r.pushLoop P samples).1.length) (r.pushLoop P samples).2 := by
    rw [Regs.pushLoop, Regs.xcorrPush_window, List.drop_drop, ← List.append_assoc]
    rfl
  rw [hrest, Regs.pushLoop, hcut, xcorrLoop_append]
  rfl

/-- The registers after a block are those after its two parts, once samples are held when the second arrives. -/
theorem Regs.xcorrPush_append (ys : List C32) (q : U64) (h : r.hist ≠ [] ∨ samples ≠ []) :
    (r.xcorrPush P (samples ++ ys) readPos).1 =
      ((r.xcorrPush P samples readPos).1.xcorrPush P ys q).1 := by
  have hheld : r.hist ++ samples ≠ [] := by simpa using fun h0 => h.resolve_left (not_not.2 h0)
  rw [Regs.xcorrPush_regs _ _ (samples ++ ys), Regs.xcorrPush_regs _ (r.xcorrPush P samples readPos).1,
    Regs.pushLoop_append P r samples readPos, Regs.xcorrPush_hist, if_neg hheld]
  simp only [List.length_append, ← Nat.add_assoc, ← List.append_assoc]
  rw [Regs.xcorrPush_regs P r samples]

end Push

/-- Settles O26: the registers are those of the loop; with one window held the loop takes one turn. -/
theorem xcorrPushResult : Obligations.XcorrPushResult := by
  refine ⟨fun s r samples readPos hs => ?_, fun s r x leaving rest readPos hs hwin htaps => ?_⟩
  · refine ⟨(r.pushLoop Config.params samples).1, (r.pushLoop Config.params samples).2.map (·.energy),
      (r.pushLoop Config.params samples).2.bind (·.sum), ?_, r.pushLoop_length _ samples⟩
    rw [exec_xcorrPush_ready hs, Regs.xcorrPush_regs, Regs.xcorrPush_scores]
    rfl
  · have hheld : r.hist ≠ [] := by
      intro h0
      simp [h0] at hwin
    rw [exec_xcorrPush_ready hs, Regs.xcorrPush_regs, Regs.xcorrPush_scores, if_neg hheld,
      r.pushLoop_single Config.params hwin htaps]
    simp only [Regs.window_getD_first, windowScore_eq, htaps]
    generalize (if r.winEnergy.isSome then r.winSum else _) = sum
    cases sum <;> rfl

/-- Settles O27: the loop on a block cut in two, and the registers left by it. -/
theorem xcorrPushCut : Obligations.XcorrPushCut := by
  intro s r xs ys p q hs h
  refine ⟨_, _, _, _, exec_xcorrPush_ready hs xs p, rfl, exec_xcorrPush_ready (State.withRegs_inst ..) ys q, rfl, ?_⟩
  rw [exec_xcorrPush_ready hs, Regs.xcorrPush_append _ _ _ _ ys q h, Regs.xcorrPush_scores, Regs.pushLoop_append _ _ _ p]
  rfl

end Sys2Proof.Machine
end

section
/-!
PROOFS. What a block makes of the burst detector waiting with nothing collected (spec 42_burst_detector_fsm R182, R185):
the block up to its first crossing, the burst from there, and the rest of the block from waiting again.
-/

namespace Sys2Proof.Machine

open Sys2Proof

/-- Of the samples `zs` with their scores, the one at `K` is the first whose score exceeds the threshold. -/
structure FirstCrossing (thr : F32) (zs : List (C32 × F32)) (K : ℕ) : Prop where
  quiet : ∀ p ∈ zs.take K, f32Gt p.2 thr = false
  crosses : ∃ p, zs[K]? = some p ∧ f32Gt p.2 thr = true

theorem quiet_or_exists_firstCrossing (thr : F32) (zs : List (C32 × F32)) :
    (∀ p ∈ zs, f32Gt p.2 thr = false) ∨ ∃ K, FirstCrossing thr zs K := by
  cases h : zs.find? (fun p => f32Gt p.2 thr) with
  | none => exact .inl (by simpa using h)
  | some p =>
    obtain ⟨hp, quiet, rest, rfl, hquiet⟩ := List.find?_eq_some_iff_append.1 h
    exact .inr ⟨quiet.length, by simpa using hquiet, p, by simp, hp⟩

section Crossing

variable {burstLen : ℕ} {thr : F32} {zs : List (C32 × F32)} {K : ℕ}

theorem FirstCrossing.lt_length (h : FirstCrossing thr zs K) : K < zs.length := by
  obtain ⟨p, hp, -⟩ := h.crosses
  exact (List.getElem?_eq_some_iff.1 hp).1

theorem FirstCrossing.drop_eq_cons (h : FirstCrossing thr zs K) :
    ∃ x score, f32Gt score thr = true ∧ zs.drop K = (x, score) :: zs.drop (K + 1) := by
  obtain ⟨⟨x, score⟩, hp, hgt⟩ := h.crosses
  exact ⟨x, score, hgt, by rw [List.drop_eq_getElem?_toList_append, hp]; rfl⟩

/-- The samples before the first crossing do nothing (42 R185). -/
theorem FirstCrossing.run_eq (h : FirstCrossing thr zs K) (pos : U64) :
    Detector.run burstLen thr pos zs .idle =
      Detector.run burstLen thr (pos + BitVec.ofNat 64 K) (zs.drop K) .idle := by
  conv_lhs => rw [← List.take_append_drop K zs]
  rw [Detector.run_append, Detector.run_quiet _ _ _ _ h.quiet, List.length_take_of_le h.lt_length.le]
  rfl

/-- A block that ends before the burst is full leaves the detector collecting from the crossing (42 R185). -/
theorem FirstCrossing.run_open (h : FirstCrossing thr zs K) (hlen : zs.length < K + burstLen) (pos : U64) :
    Detector.run burstLen thr pos zs .idle =
      (⟨.collecting (pos + BitVec.ofNat 64 K), (zs.drop K).map (·.1)⟩, []) := by
  obtain ⟨x, score, hgt, hdrop⟩ := h.drop_eq_cons
  have hK := h.lt_length
  have hfirst : Detector.sample burstLen thr (pos + BitVec.ofNat 64 K) x score .idle =
      (⟨.collecting (pos + BitVec.ofNat 64 K), [x]⟩, none) := by
    simp only [Detector.sample, Detector.idle, hgt, if_true, Detector.flush_collecting, List.length_singleton]
    rw [if_neg (by omega)]
  rw [h.run_eq, hdrop, Detector.run_cons, hfirst,
    Detector.run_collect _ _ _ _ _ _ (by simp only [List.length_singleton, List.length_drop]; omega)]
  rfl

/-- A block long enough gives the burst from the crossing; the rest of it is examined from waiting (42 R185). -/
theorem FirstCrossing.run_burst (h : FirstCrossing thr zs K) (hb : 1 ≤ burstLen) (hlen : K + burstLen ≤ zs.length)
    (pos : U64) :
    Detector.run burstLen thr pos zs .idle =
      ((Detector.run burstLen thr (pos + BitVec.ofNat 64 (K + burstLen)) (zs.drop (K + burstLen)) .idle).1,
        ⟨((zs.drop K).take burstLen).map (·.1), pos + BitVec.ofNat 64 K⟩ ::
          (Detector.run burstLen thr (pos + BitVec.ofNat 64 (K + burstLen)) (zs.drop (K + burstLen)) .idle).2) := by
  obtain ⟨x, score, hgt, hdrop⟩ := h.drop_eq_cons
  obtain ⟨m, rfl⟩ : ∃ m, burstLen = m + 1 := Nat.exists_eq_add_of_le' hb
  have hburst : (zs.drop K).take (m + 1) = (x, score) :: (zs.drop (K + 1)).take m := by
    rw [hdrop, List.take_succ_cons]
  have hcut : zs = (zs.take K ++ (x, score) :: (zs.drop (K + 1)).take m) ++ zs.drop (K + (m + 1)) := by
    rw [← hburst, ← List.take_add, List.take_append_drop]
  have hlen_quiet : (zs.take K).length = K := List.length_take_of_le h.lt_length.le
  have hlen_fill : ((zs.drop (K + 1)).take m).length + 1 = m + 1 := by
    rw [List.length_take_of_le (by rw [List.length_drop]; omega)]
  have hlen_head : (zs.take K ++ (x, score) :: (zs.drop (K + 1)).take m).length = K + (m + 1) := by
    rw [List.length_append, hlen_quiet, List.length_cons, hlen_fill]
  conv_lhs => rw [hcut]
  rw [Detector.run_append, Detector.run_first_burst _ _ _ _ _ _ _ h.quiet hgt hlen_fill, hlen_head, hlen_quiet, hburst]
  rfl

end Crossing

/-- `ks` are the offsets in `zs` of bursts of `burstLen` samples: crossings, one burst after another, inside `zs`. -/
structure BurstOffsets (burstLen : ℕ) (thr : F32) (zs : List (C32 × F32)) (ks : List ℕ) : Prop where
  apart : ks.Pairwise (fun a b => a + burstLen ≤ b)
  inside : ∀ k ∈ ks, k + burstLen ≤ zs.length
  crosses : ∀ k ∈ ks, ∃ p, zs[k]? = some p ∧ f32Gt p.2 thr = true

theorem BurstOffsets.nil (burstLen : ℕ) (thr : F32) (zs : List (C32 × F32)) : BurstOffsets burstLen thr zs [] :=
  ⟨.nil, by simp, by simp⟩

/-- The offsets of a first burst and of those in the samples after it. -/
theorem BurstOffsets.cons {burstLen K : ℕ} {thr : F32} {zs : List (C32 × F32)} {ks : List ℕ}
    (h : FirstCrossing thr zs K) (hlen : K + burstLen ≤ zs.length)
    (hks : BurstOffsets burstLen thr (zs.drop (K + burstLen)) ks) :
    BurstOffsets burstLen thr zs (K :: ks.map (K + burstLen + ·)) where
  apart := by
    refine List.pairwise_cons.2 ⟨fun b hb => ?_, List.pairwise_map.2 (hks.apart.imp fun hab => by omega)⟩
    obtain ⟨k, -, rfl⟩ := List.mem_map.1 hb
    omega
  inside := by
    refine List.forall_mem_cons.2 ⟨hlen, List.forall_mem_map.2 fun k hk => ?_⟩
    have hin := hks.inside k hk
    rw [List.length_drop] at hin
    omega
  crosses := by
    refine List.forall_mem_cons.2 ⟨h.crosses, List.forall_mem_map.2 fun k hk => ?_⟩
    simpa only [List.getElem?_drop] using hks.crosses k hk

/-- The burst of `burstLen` samples from offset `k` of a block whose first position is `pos`. -/
def burstAt (burstLen : ℕ) (pos : U64) (samples : List C32) (k : ℕ) : Burst :=
  ⟨(samples.drop k).take burstLen, pos + BitVec.ofNat 64 k⟩

theorem burstAt_drop (burstLen : ℕ) (pos : U64) (samples : List C32) (n k : ℕ) :
    burstAt burstLen (pos + BitVec.ofNat 64 n) (samples.drop n) k = burstAt burstLen pos samples (n + k) := by
  rw [burstAt, burstAt, List.drop_drop, BitVec.ofNat_add, BitVec.add_assoc]

/-- From waiting, the bursts of a block are slices of it from crossings, one after another (42 R182, R184, R185). -/
theorem Detector.run_idle_bursts {burstLen : ℕ} (hb : 1 ≤ burstLen) (thr : F32) (pos : U64) (zs : List (C32 × F32)) :
    ∃ ks, BurstOffsets burstLen thr zs ks ∧
      (Detector.run burstLen thr pos zs .idle).2 = ks.map (burstAt burstLen pos (zs.map (·.1))) := by
  induction hn : zs.length using Nat.strong_induction_on generalizing zs pos with
  | _ n ih =>
    subst hn
    rcases quiet_or_exists_firstCrossing thr zs with hquiet | ⟨K, hK⟩
    · exact ⟨[], .nil .., by rw [Detector.run_quiet _ _ _ _ hquiet]; rfl⟩
    rcases Nat.lt_or_ge zs.length (K + burstLen) with hopen | hfull
    · exact ⟨[], .nil .., by rw [hK.run_open hopen]; rfl⟩
    · obtain ⟨ks, hks, hbursts⟩ := ih _ (by rw [List.length_drop]; omega)
        (pos + BitVec.ofNat 64 (K + burstLen)) (zs.drop (K + burstLen)) rfl
      refine ⟨_, hks.cons hK hfull, ?_⟩
      rw [hK.run_burst hb hfull, hbursts, List.map_cons, List.map_map, List.map_drop]
      refine congrArg₂ _ (by rw [burstAt, List.map_take, List.map_drop]) (List.map_congr_left fun k _ => ?_)
      exact burstAt_drop ..

end Sys2Proof.Machine
end

section
/-!
PROOFS. `FSM_BLOCK` when `READY` (spec 42_burst_detector_fsm R182 to R185): its transition table, blocks cut in two, and
what it returns of a block from waiting.
-/

namespace Sys2Proof.Machine

open Sys2Proof

/-! ### `FSM_BLOCK` by the detector -/

/-- The run of the detector the registers hold over a block, at their burst length and threshold. -/
def Regs.examine (r : Regs) (samples : List C32) (scores : List F32) (pos : U64) : Detector × List Burst :=
  Detector.run r.burstLen r.threshold pos (samples.zip scores) r.detector

/-- The state after an `FSM_BLOCK` that leaves the detector and emits the bursts of `d`. -/
def State.afterFsm (s : State) (r : Regs) (d : Detector × List Burst) : State :=
  (s.withRegs (r.latch.withDetector d.1)).withReply (.bursts d.2)

theorem exec_fsmBlock_ready {s : State} {r : Regs} {samples : List C32} {scores : List F32} (hs : s.inst = .ready r)
    (hlen : scores.length = samples.length) (pos : U64) :
    exec (.fsmBlock samples scores pos) s = .next (s.afterFsm r (r.examine samples scores pos)) :=
  (directOp_ready hs).trans (if_pos hlen)

theorem Regs.detector_eq_idle {r : Regs} (hw : r.fsm = .waiting) (hbuf : r.burstBuf = []) : r.detector = .idle := by
  rw [Regs.detector, hw, hbuf, Detector.idle]

/-- Back at the detector it began with, the call has changed the latch alone. -/
theorem State.afterFsm_detector (s : State) (r : Regs) (bursts : List Burst) :
    s.afterFsm r (r.detector, bursts) =
      { s with inst := .ready { r with thrLatch := some r.threshold }, reply := some (.bursts bursts) } := rfl

/-! ### One sample (42 R183) -/

theorem Regs.examine_single (r : Regs) (x : C32) (score : F32) (pos : U64) :
    r.examine [x] [score] pos =
      ((r.detector.sample r.burstLen r.threshold pos x score).1,
        (r.detector.sample r.burstLen r.threshold pos x score).2.toList) := by
  rw [Regs.examine, List.zip_cons_cons, List.zip_nil_left, Detector.run_cons, Detector.run_nil, List.append_nil]

theorem Detector.sample_waiting (burstLen : ℕ) (thr : F32) (pos : U64) (x : C32) (score : F32) (buf : List C32) :
    Detector.sample burstLen thr pos x score ⟨.waiting, buf⟩ =
      if f32Gt score thr then Detector.flush burstLen ⟨.collecting pos, [x]⟩ else (⟨.waiting, buf⟩, none) := rfl

theorem Detector.sample_collecting (burstLen : ℕ) (thr : F32) (pos start : U64) (x : C32) (score : F32) (buf : List C32) :
    Detector.sample burstLen thr pos x score ⟨.collecting start, buf⟩ =
      Detector.flush burstLen ⟨.collecting start, buf ++ [x]⟩ := rfl

/-- Settles O31: a call of one sample is one sample step; each row of the table is a branch of it. -/
theorem fsmOneSample : Obligations.FsmOneSample := by
  intro s r x score pos hs
  rw [exec_fsmBlock_ready hs rfl pos, Regs.examine_single, Regs.detector]
  refine ⟨fun hw hgt => ?_, fun hw hgt hb => ?_, fun k hk hb => ?_, fun k hk hb => ?_, fun hw hgt hb => ?_⟩
  · rw [hw, Detector.sample_waiting, hgt, if_neg Bool.false_ne_true, ← hw]
    rfl
  · rw [hw, Detector.sample_waiting, if_pos hgt, Detector.flush_collecting, List.length_singleton, if_neg (Ne.symm hb)]
    rfl
  · rw [hk, Detector.sample_collecting, Detector.flush_collecting, List.length_append, List.length_singleton,
      if_neg hb, ← hk]
    rfl
  · rw [hk, Detector.sample_collecting, Detector.flush_collecting, List.length_append, List.length_singleton,
      if_pos hb]
    rfl
  · rw [hw, Detector.sample_waiting, if_pos hgt, Detector.flush_collecting, List.length_singleton, if_pos hb.symm,
      Detector.idle, ← hw]
    rfl

/-! ### Two blocks (42 R185) -/

/-- Examining a block is examining its first part, and its second on the registers the first part left. -/
theorem Regs.examine_append (r : Regs) {xs : List C32} {cx : List F32} (hx : cx.length = xs.length) (ys : List C32)
    (cy : List F32) (pos : U64) :
    r.examine (xs ++ ys) (cx ++ cy) pos =
      (((r.latch.withDetector (r.examine xs cx pos).1).examine ys cy (pos + BitVec.ofNat 64 xs.length)).1,
        (r.examine xs cx pos).2 ++
          ((r.latch.withDetector (r.examine xs cx pos).1).examine ys cy (pos + BitVec.ofNat 64 xs.length)).2) := by
  rw [Regs.examine, List.zip_append hx.symm, Detector.run_append, List.length_zip, hx, Nat.min_self]
  rfl

/-- Settles O32: the detector's run over a block cut in two. -/
theorem fsmCut : Obligations.FsmCut := by
  intro s r xs ys cx cy pos hs hx hy
  have hxy : (cx ++ cy).length = (xs ++ ys).length := by rw [List.length_append, List.length_append, hx, hy]
  refine ⟨_, _, _, _, exec_fsmBlock_ready hs hx pos, rfl, exec_fsmBlock_ready (State.withRegs_inst ..) hy _, rfl, ?_⟩
  rw [exec_fsmBlock_ready hs hxy, Regs.examine_append r hx]
  rfl

/-! ### A block from waiting (42 R184, R185) -/

section Waiting

variable {samples : List C32} {scores : List F32}

theorem length_zip_scores (hlen : scores.length = samples.length) : (samples.zip scores).length = samples.length := by
  rw [List.length_zip, hlen, Nat.min_self]

theorem zip_scores_quiet {thr : F32} (h : ∀ v ∈ scores, f32Gt v thr = false) (samples : List C32) :
    ∀ p ∈ samples.zip scores, f32Gt p.2 thr = false :=
  fun p hp => h p.2 (List.of_mem_zip (a := p.1) (b := p.2) hp).2

/-- The first score to exceed the threshold is the first crossing of the block. -/
theorem firstCrossing_zip {thr v : F32} {K : ℕ} (hlen : scores.length = samples.length) (hv : scores[K]? = some v)
    (hgt : f32Gt v thr = true) (hquiet : ∀ v' ∈ scores.take K, f32Gt v' thr = false) :
    FirstCrossing thr (samples.zip scores) K where
  quiet := by
    rw [List.zip_eq_zipWith, List.take_zipWith]
    exact zip_scores_quiet hquiet _
  crosses := by
    have hK : K < samples.length := hlen ▸ (List.getElem?_eq_some_iff.1 hv).1
    exact ⟨(samples[K], v), List.getElem?_zip_eq_some.2 ⟨List.getElem?_eq_getElem hK, hv⟩, hgt⟩

end Waiting

/-- Settles O33: the offsets of the detector's bursts, with the samples and the scores of the block told apart. -/
theorem burstsAreDisjointSlices : Obligations.BurstsAreDisjointSlices := by
  intro s r samples scores pos hs hw hbuf hb hlen
  obtain ⟨ks, hks, hbursts⟩ := Detector.run_idle_bursts hb r.threshold pos (samples.zip scores)
  rw [List.map_fst_zip hlen.ge, ← Regs.detector_eq_idle hw hbuf] at hbursts
  refine ⟨_, ks, exec_fsmBlock_ready hs hlen pos, congrArg (some ∘ Reply.bursts) hbursts, hks.apart, fun k hk => ?_⟩
  obtain ⟨p, hp, hgt⟩ := hks.crosses k hk
  exact ⟨length_zip_scores hlen ▸ hks.inside k hk, p.2, (List.getElem?_zip_eq_some.1 hp).2, hgt⟩

/-- Settles O34: no crossing, and the block that ends before, with, or after the burst from the first crossing. -/
theorem fsmExactness : Obligations.FsmExactness := by
  intro s r samples scores pos hs hw hbuf hlen
  have hidle : r.detector = .idle := Regs.detector_eq_idle hw hbuf
  have hexec := exec_fsmBlock_ready hs hlen pos
  rw [Regs.examine, hidle] at hexec
  refine ⟨fun hquiet => ?_, fun K v hv hgt hquiet => ?_⟩
  · rw [hexec, Detector.run_quiet _ _ _ _ (zip_scores_quiet hquiet _), ← hidle, State.afterFsm_detector]
  have hcross := firstCrossing_zip hlen hv hgt hquiet
  have hzip := length_zip_scores hlen
  refine ⟨fun hshort => ?_, fun hexact => ?_, fun hb hlong => ?_⟩
  · rw [hexec, hcross.run_open (by omega), List.map_drop, List.map_fst_zip hlen.ge]
    rfl
  · have hK := hcross.lt_length
    have htake : (samples.drop K).take r.burstLen = samples.drop K :=
      List.take_of_length_le (by rw [List.length_drop]; omega)
    rw [hexec, hcross.run_burst (by omega) (by omega), List.drop_of_length_le (by omega), Detector.run_nil,
      List.map_take, List.map_drop, List.map_fst_zip hlen.ge, htake, ← hidle, State.afterFsm_detector]
  · have hrest : (scores.drop (K + r.burstLen)).length = (samples.drop (K + r.burstLen)).length := by
      rw [List.length_drop, List.length_drop, hlen]
    have hafter := exec_fsmBlock_ready hs hrest (pos + BitVec.ofNat 64 (K + r.burstLen))
    refine ⟨_, _, hafter, rfl, ?_⟩
    rw [hexec, hcross.run_burst hb (by omega), List.map_take, List.map_drop, List.map_fst_zip hlen.ge, Regs.examine,
      hidle, List.zip_eq_zipWith, List.drop_zipWith]
    rfl

end Sys2Proof.Machine
end

section
/-!
PROOFS. The threshold comparison on binary32 patterns (spec 42_burst_detector_fsm R187): the rank it compares orders the
finite patterns as their values, with NaN outside and the infinities at the two ends.
-/

namespace Sys2Proof.Machine

open Sys2Proof Sys2Proof.Terms

theorem f32Gt_iff (x y : F32) : f32Gt x y = true ↔ f32IsNan x = false ∧ f32IsNan y = false ∧ f32Rank y < f32Rank x := by
  simp only [f32Gt, Bool.and_eq_true, Bool.not_eq_true', decide_eq_true_eq, and_assoc]

theorem f32Gt_eq_false_iff (x y : F32) :
    f32Gt x y = false ↔ (f32IsNan x = false → f32IsNan y = false → f32Rank x ≤ f32Rank y) := by
  rw [← Bool.not_eq_true, f32Gt_iff]
  simp only [not_and, not_lt]

/-! ### The rank by sign and magnitude -/

theorem f32Rank_natAbs (x : F32) : (f32Rank x).natAbs = f32Magnitude x := by
  unfold f32Rank
  split
  · exact Int.natAbs_natCast _
  · rw [Int.natAbs_neg, Int.natAbs_natCast]

/-- The test for a NaN is that of the field layout (30 R100). -/
theorem f32IsNan_iff (x : F32) : f32IsNan x = true ↔ f32Nan x := by
  rw [f32IsNan, decide_eq_true_iff, f32Magnitude, f32Nan]
  omega

theorem f32IsNan_eq_false_iff (x : F32) : f32IsNan x = false ↔ (f32Rank x).natAbs ≤ 0x7F800000 := by
  rw [f32IsNan, decide_eq_false_iff_not, not_lt, f32Rank_natAbs]

theorem f32Finite_iff (x : F32) : f32Finite x ↔ (f32Rank x).natAbs < 0x7F800000 := by
  rw [f32Finite, f32Rank_natAbs, f32Magnitude]
  omega

theorem f32Rank_posInf : f32Rank 0x7F800000 = 0x7F800000 := by decide

theorem f32Rank_negInf : f32Rank 0xFF800000 = -0x7F800000 := by decide

/-! ### The value by the rank -/

/-- The value of rank `n`, in the units of `f32Units`. -/
def rankUnits (n : ℤ) : ℤ := n.sign * f32Units n.natAbs

theorem f32Units_zero : f32Units 0 = 0 := by
  rw [f32Units, Nat.zero_div, Nat.zero_mod, if_pos rfl, Nat.zero_mul]

theorem rankUnits_natCast (n : ℕ) : rankUnits n = f32Units n := by
  rcases Nat.eq_zero_or_pos n with rfl | hn
  · rw [rankUnits, Nat.cast_zero, Int.sign_zero, zero_mul, f32Units_zero, Nat.cast_zero]
  · rw [rankUnits, Int.sign_natCast_of_ne_zero hn.ne', one_mul, Int.natAbs_natCast]

theorem rankUnits_neg (n : ℤ) : rankUnits (-n) = -rankUnits n := by
  rw [rankUnits, rankUnits, Int.sign_neg, Int.natAbs_neg, neg_mul]

/-- The units of a magnitude grow with it, and those of a negative rank mirror them. -/
theorem rankUnits_strictMono : StrictMono rankUnits := by
  refine strictMono_of_odd_strictMonoOn_nonneg rankUnits_neg fun a ha b hb hab => ?_
  lift a to ℕ using ha
  lift b to ℕ using hb
  rw [rankUnits_natCast, rankUnits_natCast]
  exact_mod_cast f32Units_strictMono (Int.ofNat_lt.1 hab)

theorem f32Value_eq_rankUnits (x : F32) : f32Value x = rankUnits (f32Rank x) * leastF64 := by
  rw [f32Value_eq_units, signFactor, f32Rank, f32Magnitude]
  have hx : x.toNat < 2 ^ 32 := x.isLt
  by_cases hneg : x.toNat < 2 ^ 31
  · rw [if_neg (by omega), if_pos hneg, rankUnits_natCast, one_mul, Int.cast_natCast]
  · rw [if_pos (by omega), if_neg hneg, rankUnits_neg, rankUnits_natCast, Int.cast_neg, Int.cast_natCast, neg_one_mul]

theorem f32Value_lt_iff (x y : F32) : f32Value y < f32Value x ↔ f32Rank y < f32Rank x := by
  rw [f32Value_eq_rankUnits, f32Value_eq_rankUnits, mul_lt_mul_iff_of_pos_right leastF64_pos, Int.cast_lt,
    rankUnits_strictMono.lt_iff_lt]

/-- Settles O35: the comparison is that of the ranks where neither is a NaN; finite ranks lie between those of the
infinities and are ordered as the values. -/
theorem thresholdComparison : Obligations.ThresholdComparison := by
  intro x y
  refine ⟨fun hnan => ?_, fun hx hy => ?_, ?_, ?_, fun hx => ?_, fun hy => ?_, by decide⟩
  · rw [← f32IsNan_iff, ← f32IsNan_iff] at hnan
    rw [f32Gt_eq_false_iff]
    intro hx hy
    simp [hx, hy] at hnan
  · rw [f32Finite_iff] at hx hy
    rw [f32Gt_iff, f32IsNan_eq_false_iff, f32IsNan_eq_false_iff, f32Value_lt_iff]
    omega
  · rw [f32Gt_eq_false_iff, f32IsNan_eq_false_iff, f32Rank_posInf]
    omega
  · rw [f32Gt_eq_false_iff, f32IsNan_eq_false_iff, f32IsNan_eq_false_iff, f32Rank_negInf]
    omega
  · rw [f32Finite_iff] at hx
    rw [f32Gt_iff, f32IsNan_eq_false_iff, f32IsNan_eq_false_iff, f32Rank_negInf]
    omega
  · rw [f32Finite_iff] at hy
    rw [f32Gt_iff, f32IsNan_eq_false_iff, f32IsNan_eq_false_iff, f32Rank_posInf]
    omega

end Sys2Proof.Machine
end

section
/-!
PROOFS. `SYNC_ALIGN`, `CFO_ESTIMATE` and `CFO_CORRECT` when `READY` (spec 43_time_sync_cfo R201 to R205).
-/

namespace Sys2Proof.Machine

open Sys2Proof Sys2Proof.Terms

section Ready

variable {s : State} {r : Regs}

theorem exec_syncAlign_ready (hs : s.inst = .ready r) {burst : List C32} (hb : burst.length = r.burstLen) :
    exec (.syncAlign burst) s = .next (s.withReply
      (.sync (r.syncAlign Config.params burst).1 (r.syncAlign Config.params burst).2)) := by
  refine (directOp_ready hs).trans ?_
  rw [checkSize_ok hb, State.finish_ok]

theorem exec_cfoEstimate_ready (hs : s.inst = .ready r) {frame : List C32} (hf : frame.length = r.frameLen) {w : HReal}
    (hw : cfoEstimate Config.params.numerics r.layout r.pilotSel.toNat frame = some w) :
    exec (.cfoEstimate frame) s = .next (s.withReply (.real w)) := by
  refine (directOp_ready hs).trans ?_
  rw [if_pos hf, hw, orFault_some]

theorem exec_cfoCorrect_ready (hs : s.inst = .ready r) {frame : List C32} (hf : frame.length = r.frameLen) (w : HReal) :
    exec (.cfoCorrect frame w) s = .next (s.withReply (.c32s (cfoCorrect Config.params.numerics frame w))) := by
  refine (directOp_ready hs).trans ?_
  rw [checkSize_ok hf, State.finish_ok]

end Ready

/-! ### The pilot's place (30 R110, R111) -/

theorem pilotSel_toNat {r : Regs} (h : r.pilotSel = 4 ∨ r.pilotSel = 6) :
    r.pilotSel.toNat = 4 ∨ r.pilotSel.toNat = 6 :=
  h.imp (congrArg BitVec.toNat) (congrArg BitVec.toNat)

theorem symCpStart_pilotSel {r : Regs} (h : r.pilotSel = 4 ∨ r.pilotSel = 6) :
    r.layout.symCpStart r.pilotSel.toNat = pilotPrefix r := by
  rcases h with h | h
  · rw [pilotPrefix, if_pos h, h]
    exact r.layout.symCpStart_four
  · rw [pilotPrefix, if_neg (by simp [h]), h]
    exact r.layout.symCpStart_six

theorem syncOffset_pilotSel {r : Regs} (h : r.pilotSel = 4 ∨ r.pilotSel = 6) :
    r.layout.syncOffset r.pilotSel.toNat = pilotUseful r := by
  have hcp : r.layout.cp r.pilotSel.toNat = r.cpShort := by
    rcases pilotSel_toNat h with hp | hp <;> rw [hp] <;> rfl
  rw [Layout.syncOffset, Layout.symUsefulStart, symCpStart_pilotSel h, hcp, pilotUseful]

/-! ### `SYNC_ALIGN` (43 R201, R202) -/

/-- The metric `SYNC_METRIC` names, at a position of a burst (43 R201, R208). -/
def Regs.metricAt (P : Params) (r : Regs) (burst : List C32) (p : ℕ) : HReal :=
  r.syncMetric P ((burst.drop p).take r.fftSize)

theorem Regs.syncMetric_eq_ite (P : Params) (r : Regs) (window : List C32) :
    r.syncMetric P window =
      if P.syncMetric = .magsq then magsqMetric P.numerics r.zcTime window
      else directScore P.numerics P.xcMeanRemove r.taps r.tapsVar r.fftSize window := by
  rw [Regs.syncMetric]
  cases P.syncMetric <;> rfl

/-- `argmax_first` of a function's values at 0 to `last` (00 R13). -/
theorem argmaxFirst_map_range_spec {R : Type} (ge : R → R → Bool) (M : ℕ → R) (last : ℕ) :
    let p := argmaxFirst ge ((List.range (last + 1)).map M)
    (p ≤ last ∧ (∀ q, q ≤ last → ge (M p) (M q) = true) ∧
        ∀ p', p' < p → ∃ q, q ≤ last ∧ ge (M p') (M q) = false) ∨
      (p = 0 ∧ ∀ p', p' ≤ last → ∃ q, q ≤ last ∧ ge (M p') (M q) = false) := by
  have hmem (q : ℕ) (hq : q ≤ last) : M q ∈ (List.range (last + 1)).map M :=
    List.mem_map_of_mem (List.mem_range.2 (by omega))
  have hex (x : R) (h : ∃ y ∈ (List.range (last + 1)).map M, ge x y = false) : ∃ q, q ≤ last ∧ ge x (M q) = false := by
    obtain ⟨y, hy, hxy⟩ := h
    obtain ⟨q, hq, rfl⟩ := List.mem_map.1 hy
    exact ⟨q, Nat.le_of_lt_succ (List.mem_range.1 hq), hxy⟩
  have hget (q : ℕ) (hq : q ≤ last) : ((List.range (last + 1)).map M)[q]? = some (M q) := by
    rw [List.getElem?_map, List.getElem?_range (by omega), Option.map_some]
  rcases argmaxFirst_spec ge ((List.range (last + 1)).map M) with ⟨x, hx, hall, hfirst⟩ | ⟨hp, hnone⟩
  · have hplt := (List.getElem?_eq_some_iff.1 hx).1
    rw [List.length_map, List.length_range] at hplt
    have hple := Nat.le_of_lt_succ hplt
    rw [hget _ hple] at hx
    cases hx
    exact .inl ⟨hple, fun q hq => hall _ (hmem q hq), fun p' hp' => hex _ (hfirst p' hp' _ (hget p' (by omega)))⟩
  · exact .inr ⟨hp, fun p' hp' => hex _ (hnone _ (hmem p' hp'))⟩

theorem Regs.syncAlign_fst (P : Params) (r : Regs) {burst : List C32} (hn : r.fftSize ≤ burst.length) :
    (r.syncAlign P burst).1 =
      argmaxFirst P.numerics.ge ((List.range (burst.length - r.fftSize + 1)).map (r.metricAt P burst)) := by
  rw [← Nat.sub_add_comm hn]
  rfl

theorem Regs.syncAlign_snd (P : Params) {r : Regs} (hp : r.pilotSel = 4 ∨ r.pilotSel = 6) (burst : List C32) :
    (r.syncAlign P burst).2 = ((r.syncAlign P burst).1 : ℤ) - (pilotUseful r : ℤ) :=
  syncOffset_pilotSel hp ▸ rfl

/-- Settles O37: `argmax_first` over the positions of the burst. -/
theorem syncAlignResult : Obligations.SyncAlignResult := by
  intro s r burst hs hpilot hb hn ν window M last
  have hM : M = r.metricAt Config.params burst := funext fun p => (r.syncMetric_eq_ite Config.params (window p)).symm
  have hspec := argmaxFirst_map_range_spec ν.ge M last
  rw [exec_syncAlign_ready hs hb, Regs.syncAlign_snd _ hpilot, Regs.syncAlign_fst _ _ (hb ▸ hn), hb, ← hM]
  exact ⟨_, rfl, hspec⟩

/-! ### `CFO_ESTIMATE` and `CFO_CORRECT` (43 R204, R205) -/

theorem cfoEstimate_eq_frameCfo (ν : Numerics F32 HReal) {r : Regs} {frame : List C32} (hr : FrameOk r)
    (hf : frame.length = r.frameLen) :
    cfoEstimate ν r.layout r.pilotSel.toNat frame = some (frameCfo ν r frame) := by
  obtain ⟨hpilot, hlen⟩ := hr
  rw [cfoEstimate_some ν r.layout (pilotSel_toNat hpilot) (hf.trans hlen), symCpStart_pilotSel hpilot]
  rfl

theorem cfoCorrect_eq_derotated (ν : Numerics F32 HReal) {r : Regs} {frame : List C32} (hf : frame.length = r.frameLen)
    (w : HReal) : cfoCorrect ν frame w = derotated ν r frame w := by
  refine List.ext_getElem (by simp [derotated, hf]) fun n hn _ => ?_
  have hnlt : n < frame.length := by simpa using hn
  simp [cfoCorrect, derotated, hnlt]

/-- Settles O38: both reads of the estimate lie in the frame, and the correction goes sample by sample. -/
theorem cfoResults : Obligations.CfoResults := by
  intro s r frame hs hr hf
  refine ⟨exec_cfoEstimate_ready hs hf (cfoEstimate_eq_frameCfo _ hr hf), fun w => ?_⟩
  rw [exec_cfoCorrect_ready hs hf, cfoCorrect_eq_derotated _ hf]
  rfl

end Sys2Proof.Machine
end

section
/-!
PROOFS. The carrier offset of a rotated frame in exact arithmetic (spec 43_time_sync_cfo R206): samples that are
repeated `N` later differ, once rotated, by the turn of `N` samples alone, so that their dot product is their energy turned
by it.
-/

namespace Sys2Proof.Machine

open Sys2Proof

/-! ### Rotated samples -/

/-- Samples rotated at `w` radians per sample, from the phase `phi` (43 R206). -/
noncomputable def rotated (w phi : ℝ) (x : List (Cx ℝ)) : List (Cx ℝ) :=
  x.mapIdx fun n z => exactMul z (cexp (w * n + phi))

theorem exactMul_cexp_cexp (z : Cx ℝ) (s t : ℝ) : exactMul (exactMul z (cexp s)) (cexp t) = exactMul z (cexp (s + t)) := by
  rw [← toC_eq_iff]
  simp [mul_assoc, ← Complex.exp_add, add_mul]

@[simp] theorem rotated_length (w phi : ℝ) (x : List (Cx ℝ)) : (rotated w phi x).length = x.length := List.length_mapIdx

theorem rotated_getElem? (w phi : ℝ) (x : List (Cx ℝ)) (n : ℕ) :
    (rotated w phi x)[n]? = x[n]?.map fun z => exactMul z (cexp (w * n + phi)) := List.getElem?_mapIdx

theorem rotated_zero (phi : ℝ) (x : List (Cx ℝ)) : rotated 0 phi x = x.map fun z => exactMul z (cexp phi) := by
  refine List.ext_getElem? fun n => ?_
  rw [rotated_getElem?, List.getElem?_map, zero_mul, zero_add]

/-- A later starting phase turns every sample by the difference. -/
theorem rotated_add_phase (w phi t : ℝ) (x : List (Cx ℝ)) :
    rotated w (phi + t) x = (rotated w phi x).map fun z => exactMul z (cexp t) := by
  refine List.ext_getElem? fun n => ?_
  rw [rotated_getElem?, List.getElem?_map, rotated_getElem?, Option.map_map]
  congr 1
  funext z
  rw [Function.comp_apply, exactMul_cexp_cexp, add_assoc]

/-- A window of rotated samples is the window rotated from the phase of its first sample. -/
theorem window_rotated (w phi : ℝ) (x : List (Cx ℝ)) (i c : ℕ) :
    ((rotated w phi x).drop i).take c = rotated w (w * i + phi) ((x.drop i).take c) := by
  refine List.ext_getElem? fun n => ?_
  have hphase : w * (i + n : ℕ) + phi = w * n + (w * i + phi) := by
    push_cast
    ring
  rw [rotated_getElem?, List.getElem?_take, List.getElem?_take, List.getElem?_drop, List.getElem?_drop, rotated_getElem?,
    hphase]
  split <;> rfl

/-- The correction by `v` takes `v` off the rotation. -/
theorem cfoCorrect_rotated (w phi v : ℝ) (x : List (Cx ℝ)) :
    cfoCorrect exactNumerics (rotated w phi x) v = rotated (w - v) phi x := by
  refine List.ext_getElem? fun n => ?_
  have hphase : w * n + phi + -v * n = (w - v) * n + phi := by ring
  have hcorrect (z : Cx ℝ) : narrowC exactNumerics (exactNumerics.cmul (widenC exactNumerics z)
      (exactNumerics.derotate v n)) = exactMul z (cexp (-v * n)) := rfl
  rw [cfoCorrect, List.getElem?_mapIdx, rotated_getElem?, rotated_getElem?, Option.map_map]
  congr 1
  funext z
  rw [Function.comp_apply, hcorrect, exactMul_cexp_cexp, hphase]

/-! ### The dot product of samples with themselves turned -/

theorem energy_pos {x : List (Cx ℝ)} (h : ∃ z ∈ x, z ≠ ⟨0, 0⟩) : 0 < exactNumerics.energy x := by
  obtain ⟨z, hz, hz0⟩ := h
  have hnonneg : ∀ r ∈ x.map exactAbs2, 0 ≤ r := by
    intro r hr
    obtain ⟨y, -, rfl⟩ := List.mem_map.1 hr
    exact exactAbs2_eq y ▸ Complex.normSq_nonneg _
  calc 0 < Complex.normSq (toC z) := Complex.normSq_pos.2 (toC_zero ▸ toC_injective.ne hz0)
    _ = exactAbs2 z := (exactAbs2_eq z).symm
    _ ≤ exactNumerics.energy x := List.single_le_sum hnonneg _ (List.mem_map_of_mem hz)

theorem exactAbs2_mul_cexp (z : Cx ℝ) (t : ℝ) : exactAbs2 (exactMul z (cexp t)) = exactAbs2 z := by
  rw [exactAbs2_eq, toC_mul, map_mul, ← exactAbs2_eq, ← exactAbs2_eq, exactAbs2_cexp, mul_one]

theorem energy_rotated (w phi : ℝ) (x : List (Cx ℝ)) : exactNumerics.energy (rotated w phi x) = exactNumerics.energy x := by
  refine congrArg List.sum (List.ext_getElem? fun n => ?_)
  rw [List.getElem?_map, List.getElem?_map, rotated_getElem?, Option.map_map]
  exact congrArg (Option.map · _) (funext fun z => exactAbs2_mul_cexp z _)

/-- Against their conjugates, samples turned by one phase give their energy turned by it. -/
theorem toC_dot_conj_turned (x : List (Cx ℝ)) (t : ℝ) :
    toC (exactNumerics.dot ((x.map exactNumerics.conj).zip (x.map fun z => exactMul z (cexp t)))) =
      exactNumerics.energy x * Complex.exp (t * Complex.I) := by
  have hterm (z : Cx ℝ) : toC (exactNumerics.conj z) * toC (exactMul z (cexp t)) =
      (exactAbs2 z : ℂ) * Complex.exp (t * Complex.I) := by
    rw [toC_conj, toC_mul, toC_cexp, exactAbs2_eq, Complex.normSq_eq_conj_mul_self, mul_assoc]
  have henergy : (exactNumerics.energy x : ℂ) = (x.map fun z => (exactAbs2 z : ℂ)).sum := by
    rw [← Complex.ofRealHom_eq_coe, exactNumerics, map_list_sum, List.map_map]
    rfl
  rw [toC_dot, List.zip_map', List.map_map, henergy, ← List.sum_map_mul_right]
  exact congrArg List.sum (List.map_congr_left fun z _ => hterm z)

/-! ### The estimate (43 R204) -/

/-- `CFO_ESTIMATE` where both its windows lie in the frame. -/
theorem cfoEstimate_of_fits {S R : Type} [OfNat R 0] (ν : Numerics S R) (l : Layout) (pilot : ℕ) {frame : List (Cx S)}
    (hf : l.symCpStart pilot + l.n + l.cpShort ≤ frame.length) :
    let head := (frame.drop (l.symCpStart pilot)).take l.cpShort
    let tail := (frame.drop (l.symCpStart pilot + l.n)).take l.cpShort
    let d := ν.dot ((head.map fun z => ν.conj (widenC ν z)).zip (tail.map (widenC ν)))
    cfoEstimate ν l pilot frame = some (if ν.cisZero d then 0 else ν.divNat (ν.arg d) l.n) := by
  rw [cfoEstimate]
  dsimp only
  rw [memRead_eq_some (by omega), memRead_eq_some hf]

/-- Where the later window is the first turned by `w` radians for each of the `N` samples between them, by at most half a
turn, the estimate is `w`. -/
theorem cfoEstimate_turned {l : Layout} {pilot : ℕ} {f : List (Cx ℝ)} {w : ℝ} (hn : 1 ≤ l.n)
    (hf : l.symCpStart pilot + l.n + l.cpShort ≤ f.length)
    (hturn : (f.drop (l.symCpStart pilot + l.n)).take l.cpShort =
      ((f.drop (l.symCpStart pilot)).take l.cpShort).map fun z => exactMul z (cexp (w * l.n)))
    (henergy : 0 < exactNumerics.energy ((f.drop (l.symCpStart pilot)).take l.cpShort))
    (hw : w * l.n ∈ Set.Ioc (-Real.pi) Real.pi) : cfoEstimate exactNumerics l pilot f = some w := by
  have hdot := toC_dot_conj_turned ((f.drop (l.symCpStart pilot)).take l.cpShort) (w * l.n)
  have hn0 : (l.n : ℝ) ≠ 0 := by positivity
  rw [cfoEstimate_of_fits _ _ _ hf, hturn]
  simp only [map_widenC_exactNumerics, widenC_exactNumerics]
  generalize exactNumerics.dot _ = d at hdot ⊢
  have hzero : ¬exactNumerics.cisZero d = true := by
    rw [cisZero_iff, hdot]
    exact mul_ne_zero (Complex.ofReal_ne_zero.2 henergy.ne') (Complex.exp_ne_zero _)
  have harg : exactNumerics.arg d = w * l.n := by
    change exactArg d = _
    rw [exactArg_eq, hdot, Complex.exp_mul_I, Complex.arg_mul_cos_add_sin_mul_I henergy hw]
  rw [if_neg hzero, harg]
  exact congrArg some (mul_div_cancel_right₀ w hn0)

theorem window_eq_of_getD_eq {α : Type} {x : List α} {i j c : ℕ} {d : α} (hi : i + c ≤ x.length) (hj : j + c ≤ x.length)
    (h : ∀ k, k < c → x.getD (i + k) d = x.getD (j + k) d) : (x.drop i).take c = (x.drop j).take c := by
  refine List.ext_getElem (by simp; omega) fun k hk _ => ?_
  have hkc : k < c := by simp at hk; omega
  have hget := h k hkc
  rw [List.getD_eq_getElem _ _ (by omega), List.getD_eq_getElem _ _ (by omega)] at hget
  simpa using hget

theorem getD_mem_window {α : Type} {x : List α} {i c k : ℕ} (d : α) (hi : i + c ≤ x.length) (hk : k < c) :
    x.getD (i + k) d ∈ (x.drop i).take c := by
  rw [List.getD_eq_getElem _ _ (by omega)]
  exact List.mem_iff_getElem.2 ⟨k, by simp; omega, by simp⟩

/-- Settles O39: the two windows are the same samples rotated from phases `w N` apart, and the correction by `w` leaves no
rotation. -/
theorem cfoRoundTrip : Obligations.CfoRoundTrip := by
  intro l pilot g w phi a hn hg hrepeat hpilot hlow hhigh
  change cfoEstimate exactNumerics l pilot (rotated w phi g) = some w ∧
    cfoCorrect exactNumerics (rotated w phi g) w = g.map fun z => exactMul z (cexp phi)
  constructor
  · have hphase : w * (a + l.n : ℕ) + phi = w * a + phi + w * l.n := by
      push_cast
      ring
    have hwindows : (g.drop (a + l.n)).take l.cpShort = (g.drop a).take l.cpShort :=
      window_eq_of_getD_eq hg (by omega) hrepeat
    refine cfoEstimate_turned hn (by rwa [rotated_length]) ?_ ?_ ⟨hlow, hhigh⟩
    · rw [window_rotated, window_rotated, hwindows, hphase, rotated_add_phase]
    · obtain ⟨k, hk, hk0⟩ := hpilot
      rw [window_rotated, energy_rotated]
      exact energy_pos ⟨_, getD_mem_window _ (by omega) hk, hk0⟩
  · rw [cfoCorrect_rotated, sub_self, rotated_zero]

end Sys2Proof.Machine
end

section
/-!
PROOFS. `OFDM_DEMOD` on a frame of the right length (spec 44_ofdm_demod_equalizer R220): the half swap turns the bin of each
data carrier into the index of a transform output.
-/

namespace Sys2Proof.Machine

open Sys2Proof Sys2Proof.Terms

theorem exec_ofdmDemod_ready {s : State} {r : Regs} (hs : s.inst = .ready r) {frame : List C32}
    (hf : frame.length = r.frameLen) {syms : List (List C32)}
    (hsyms : ofdmDemod Config.params.numerics r.layout r.dcIdx frame = some syms) :
    exec (.ofdmDemod frame) s = .next (s.withReply (.grid syms)) := by
  refine (directOp_ready hs).trans ?_
  rw [if_pos hf, hsyms, orFault_some]

/-- The positions of the layout as the statements write them (30 R110). -/
theorem symUsefulStart_layout {r : Regs} (hcp : r.cpShort ≤ r.cpLong) {j : ℕ} (h1 : 1 ≤ j) (h9 : j ≤ 9) :
    r.layout.symUsefulStart j = usefulStart r j := by
  rcases (by omega : j = 1 ∨ (2 ≤ j ∧ j ≤ 8) ∨ j = 9) with rfl | ⟨h2, h8⟩ | rfl
  · simp [Layout.symUsefulStart_one, usefulStart, Regs.layout]
  · rw [Layout.symUsefulStart_interior _ j h2 h8, usefulStart, if_neg (by omega)]
    rfl
  · rw [Layout.symUsefulStart_nine, usefulStart, if_pos rfl]
    simp only [Regs.layout]
    omega

theorem centredSpectrum_getD {S R : Type} (ν : Numerics S R) {x : List (Cx R)} (he : Even x.length) {k : ℕ}
    (hk : k < x.length) (d : Cx R) : (centredSpectrum ν x).getD k d = ν.dft x ((k + x.length / 2) % x.length) := by
  have hlen : ((List.range x.length).map (ν.dft x)).length = x.length := by rw [List.length_map, List.length_range]
  have hmod : (k + x.length / 2) % x.length < x.length := Nat.mod_lt _ (by omega)
  rw [centredSpectrum, List.getD_eq_getElem?_getD, swapHalves_getElem? _ (by rwa [hlen, ← Nat.even_iff]) k (by rwa [hlen]),
    hlen, List.getElem?_map, List.getElem?_range hmod, Option.map_some, Option.getD_some]

/-- The transform output that stands at data carrier `i` after the half swap (00 R12, 40 R140): `N - 300 + i` left of DC,
`i - 299` right of it. -/
theorem centredSpectrum_carrier {S R : Type} (ν : Numerics S R) {x : List (Cx R)} (hn : 1024 ≤ x.length)
    (he : Even x.length) {i : ℕ} (hi : i < 600) (d : Cx R) :
    (centredSpectrum ν x).getD (if i < 300 then x.length / 2 - 300 + i else x.length / 2 - 299 + i) d =
      ν.dft x (if i < 300 then x.length - 300 + i else i - 299) := by
  have hhalf : x.length / 2 * 2 = x.length := Nat.div_mul_cancel he.two_dvd
  rw [centredSpectrum_getD ν he (by split <;> omega)]
  refine congrArg (ν.dft x) ?_
  split
  case isTrue hleft =>
    rw [Nat.mod_eq_of_lt (by omega)]
    omega
  case isFalse hright =>
    rw [show x.length / 2 - 299 + i + x.length / 2 = i - 299 + x.length by omega, Nat.add_mod_right,
      Nat.mod_eq_of_lt (by omega)]

/-- Row `j` of `frameGrid`, rows numbered from 1. -/
def frameRow (ν : Numerics F32 HReal) (r : Regs) (frame : List C32) (j : ℕ) : List C32 :=
  let x := ((frame.drop (usefulStart r j)).take r.fftSize).map (widenC ν)
  (List.range 600).map fun i => narrowC ν (ν.dft x (if i < 300 then r.fftSize - 300 + i else i - 299))

theorem frameGrid_eq_map_frameRow (ν : Numerics F32 HReal) (r : Regs) (frame : List C32) :
    frameGrid ν r frame = [1, 2, 3, 4, 5, 6, 7, 8, 9].map (frameRow ν r frame) := by
  rw [show [1, 2, 3, 4, 5, 6, 7, 8, 9] = (List.range 9).map (· + 1) from rfl, List.map_map]
  simp only [frameGrid, frameRow, Function.comp_def]

theorem demodSymbol_eq_frameRow (ν : Numerics F32 HReal) {r : Regs} {frame : List C32} (hn : AdmittedSize r.fftSize)
    (hcp : r.cpShort ≤ r.cpLong) (hdc : r.dcIdx = dataCarriers r.fftSize)
    (hf : frame.length = 9 * r.fftSize + 2 * r.cpLong + 7 * r.cpShort) {j : ℕ} (h1 : 1 ≤ j) (h9 : j ≤ 9) :
    demodSymbol ν r.layout r.dcIdx frame j = some (frameRow ν r frame j) := by
  have hsize : 1024 ≤ r.fftSize := le_of_admitted hn
  have hcarriers : r.dcIdx = carrierIndices r.fftSize := hdc.trans (carrierIndices_eq_dataCarriers hsize).symm
  have hfits : r.layout.symUsefulStart j + r.fftSize ≤ frame.length := hf ▸ r.layout.useful_in_frame j h1 h9
  rw [demodSymbol_some ν r.layout (hcarriers ▸ carrierIndices_lt hsize) hfits, symUsefulStart_layout hcp h1 h9, hcarriers,
    carrierIndices, List.map_map, frameRow]
  have hx : (((frame.drop (usefulStart r j)).take r.fftSize).map (widenC ν)).length = r.fftSize := by
    rw [symUsefulStart_layout hcp h1 h9] at hfits
    rw [List.length_map, List.length_take, List.length_drop]
    omega
  refine congrArg some (List.map_congr_left fun i hi => congrArg (narrowC ν) ?_)
  have hbin := centredSpectrum_carrier ν (by rwa [hx]) (hx.symm ▸ even_of_admitted hn) (List.mem_range.1 hi) default
  rwa [hx] at hbin

theorem ofdmDemod_eq_frameGrid (ν : Numerics F32 HReal) {r : Regs} {frame : List C32} (hn : AdmittedSize r.fftSize)
    (hcp : r.cpShort ≤ r.cpLong) (hdc : r.dcIdx = dataCarriers r.fftSize)
    (hf : frame.length = 9 * r.fftSize + 2 * r.cpLong + 7 * r.cpShort) :
    ofdmDemod ν r.layout r.dcIdx frame = some (frameGrid ν r frame) := by
  have hrows : ∀ j ∈ [1, 2, 3, 4, 5, 6, 7, 8, 9], 1 ≤ j ∧ j ≤ 9 := by decide
  rw [frameGrid_eq_map_frameRow]
  exact demodSymbols_some ν r.layout r.dcIdx frame _ _ fun j hj =>
    demodSymbol_eq_frameRow ν hn hcp hdc hf (hrows j hj).1 (hrows j hj).2

/-- Settles O43: every read lies in the frame, and every gathered bin is a transform output. -/
theorem ofdmDemodResult : Obligations.OfdmDemodResult := by
  intro s r frame hs hr hn hcp hdc hf
  exact exec_ofdmDemod_ready hs hf (ofdmDemod_eq_frameGrid _ hn hcp hdc (hf.trans hr.2))

end Sys2Proof.Machine
end

section
/-!
PROOFS. `CHAN_EST` and `EQUALIZE` when `READY`, carrier by carrier (spec 44_ofdm_demod_equalizer R221, R222; 70 R386).
-/

namespace Sys2Proof.Machine

open Sys2Proof Sys2Proof.Terms

/-! ### Grids -/

theorem isGrid_iff {α : Type} {rows cols : ℕ} {g : List (List α)} :
    isGrid rows cols g = true ↔ g.length = rows ∧ ∀ row ∈ g, row.length = cols := by
  simp [isGrid]

theorem length_rowOf {α : Type} {rows cols : ℕ} {g : List (List α)} (hg : isGrid rows cols g = true) {j : ℕ}
    (h1 : 1 ≤ j) (hj : j ≤ rows) : (rowOf g j).length = cols := by
  obtain ⟨hrows, hcols⟩ := isGrid_iff.1 hg
  rw [rowOf, List.getD_eq_getElem _ _ (by omega)]
  exact hcols _ (List.getElem_mem _)

/-! ### Vectors as functions of the index -/

theorem mapIdx_eq_map_range {α β : Type} {x : List α} {n : ℕ} (hx : x.length = n) (d : α) (f : ℕ → α → β) :
    x.mapIdx f = (List.range n).map fun i => f i (x.getD i d) := by
  refine List.ext_getElem (by simp [hx]) fun i hi _ => ?_
  have hlt : i < x.length := by simpa using hi
  simp [hlt]

theorem eq_map_range_getD {α : Type} {x : List α} {n : ℕ} (hx : x.length = n) (d : α) :
    x = (List.range n).map fun i => x.getD i d := by
  refine List.ext_getElem (by simp [hx]) fun i hi _ => ?_
  simp [hi]

theorem getD_zip {α β : Type} {x : List α} {y : List β} (h : x.length = y.length) (i : ℕ) (a : α) (b : β) :
    (x.zip y).getD i (a, b) = (x.getD i a, y.getD i b) := by
  rcases Nat.lt_or_ge i x.length with hi | hi
  · simp [hi, h ▸ hi]
  · simp [hi, h ▸ hi]

theorem zip_map_eq_map_range {α β γ : Type} {x : List α} {y : List β} {n : ℕ} (hx : x.length = n) (hy : y.length = n)
    (a : α) (b : β) (f : α × β → γ) :
    (x.zip y).map f = (List.range n).map fun i => f (x.getD i a, y.getD i b) := by
  rw [eq_map_range_getD (x := x.zip y) (n := n) (by simp [hx, hy]) (a, b), List.map_map]
  exact List.map_congr_left fun i _ => congrArg f (getD_zip (hx.trans hy.symm) i a b)

/-! ### The two operations as the statements write them -/

theorem chanEst_eq_gridChannel (ν : Numerics F32 HReal) {r : Regs} {syms : List (List C32)} (free : ℕ → C32)
    (hy : r.zcFreq.length = 600) (hrow : (rowOf syms r.pilotSel.toNat).length = 600) :
    chanEst ν r.zcFreq r.pilotSel.toNat free syms = gridChannel ν r free syms := by
  rw [chanEst, mapIdx_eq_map_range (n := 600) (by simp [hy, hrow]) (⟨0, 0⟩, ⟨0, 0⟩)]
  simp only [getD_zip (hy.trans hrow.symm)]
  rfl

theorem equalize_eq_gridEqualized (ν : Numerics F32 HReal) {r : Regs} {syms : List (List C32)} {chan : List C32}
    (hg : isGrid 9 600 syms = true) (hc : chan.length = 600) :
    equalize ν r.pilotSel.toNat syms chan = gridEqualized ν r syms chan := by
  rw [equalize, gridEqualized, mapIdx_eq_map_range (isGrid_iff.1 hg).1 []]
  refine List.map_congr_left fun j hj => ?_
  have hrow : (syms.getD j []).length = 600 := length_rowOf hg (Nat.le_add_left 1 j) (List.mem_range.1 hj)
  by_cases hp : j + 1 = r.pilotSel.toNat
  · simp only [if_pos hp]
    exact eq_map_range_getD hrow _
  · simp only [if_neg hp]
    exact zip_map_eq_map_range hrow hc _ _ _

section Ready

variable {s : State} {r : Regs}

theorem exec_chanEst_ready (hs : s.inst = .ready r) (syms : List (List C32)) :
    exec (.chanEst syms) s = .next ((s.draw 600).withReply (.c32s (chanEst Config.params.numerics r.zcFreq
      r.pilotSel.toNat (fun i => Config.freeCplx (s.drawn + i)) syms))) :=
  directOp_ready hs

theorem exec_equalize_ready (hs : s.inst = .ready r) (syms : List (List C32)) (chan : List C32) :
    exec (.equalize syms chan) s =
      .next (s.withReply (.grid (equalize Config.params.numerics r.pilotSel.toNat syms chan))) :=
  directOp_ready hs

end Ready

/-- Settles O44: the pilot's row is one of the nine, and both operations go carrier by carrier. -/
theorem channelResults : Obligations.ChannelResults := by
  intro s r syms hs hpilot hy hg
  have hrow : (rowOf syms r.pilotSel.toNat).length = 600 := by
    rcases pilotSel_toNat hpilot with hp | hp <;> exact length_rowOf hg (by omega) (by omega)
  refine ⟨?_, fun chan hc => ?_⟩
  · rw [exec_chanEst_ready hs, chanEst_eq_gridChannel _ _ hy hrow]
    rfl
  · rw [exec_equalize_ready hs, equalize_eq_gridEqualized _ hg hc]
    rfl

end Sys2Proof.Machine
end

section
/-!
PROOFS. Equalization in exact arithmetic (spec 44_ofdm_demod_equalizer R223): the estimate of a received pilot is the inverse
of the gain, and multiplying by it leaves what was sent.
-/

namespace Sys2Proof.Machine

open Sys2Proof

/-! ### One carrier -/

theorem toC_ne_zero {z : Cx ℝ} (hz : z ≠ ⟨0, 0⟩) : toC z ≠ 0 := toC_injective.ne hz

theorem toC_one : toC ⟨1, 0⟩ = 1 := rfl

/-- The known value over the received one is the inverse of the gain (R221). -/
theorem exactDiv_exactMul_self {v : Cx ℝ} (hv : v ≠ ⟨0, 0⟩) (h : Cx ℝ) :
    exactDiv v (exactMul h v) = exactDiv ⟨1, 0⟩ h := by
  refine toC_injective ?_
  rw [toC_div, toC_mul, toC_div, toC_one, div_mul_cancel_right₀ (toC_ne_zero hv), one_div]

/-- Multiplying by the inverse of the gain leaves what was sent (R222). -/
theorem exactMul_exactDiv_one {h : Cx ℝ} (hh : h ≠ ⟨0, 0⟩) (z : Cx ℝ) :
    exactMul (exactMul h z) (exactDiv ⟨1, 0⟩ h) = z := by
  refine toC_injective ?_
  rw [toC_mul, toC_mul, toC_div, toC_one, one_div, mul_right_comm, mul_inv_cancel₀ (toC_ne_zero hh), one_mul]

theorem cisZero_exactMul {h v : Cx ℝ} (hh : h ≠ ⟨0, 0⟩) (hv : v ≠ ⟨0, 0⟩) :
    ¬exactNumerics.cisZero (exactMul h v) = true := by
  rw [cisZero_iff, toC_mul]
  exact mul_ne_zero (toC_ne_zero hh) (toC_ne_zero hv)

/-! ### One row -/

theorem rowOf_map_gain (H : List (Cx ℝ)) (T : List (List (Cx ℝ))) (j : ℕ) :
    rowOf (T.map fun row => List.zipWith exactMul H row) j = List.zipWith exactMul H (rowOf T j) := by
  simpa only [rowOf, List.zipWith_nil_right] using List.getD_map (n := j - 1) T [] (List.zipWith exactMul H)

/-- `CHAN_EST` of a pilot row without zeros behind a nonzero gain: no carrier takes a free value. -/
theorem chanEst_of_gain {H y : List (Cx ℝ)} (hlen : H.length = y.length) (hH : ∀ h ∈ H, h ≠ ⟨0, 0⟩)
    (hy : ∀ v ∈ y, v ≠ ⟨0, 0⟩) {pilot : ℕ} {syms : List (List (Cx ℝ))}
    (hrow : rowOf syms pilot = List.zipWith exactMul H y) (free : ℕ → Cx ℝ) :
    chanEst exactNumerics y pilot free syms = H.map (exactDiv ⟨1, 0⟩) := by
  rw [chanEst, hrow]
  refine List.ext_getElem (by simp [hlen]) fun i _ hi => ?_
  have hiH : i < H.length := by simpa using hi
  have hiy : i < y.length := hlen ▸ hiH
  have hh := hH _ (List.getElem_mem hiH)
  have hv := hy _ (List.getElem_mem hiy)
  simp only [List.getElem_mapIdx, List.getElem_zip, List.getElem_zipWith, List.getElem_map, widenC_exactNumerics,
    if_neg (cisZero_exactMul hh hv)]
  exact exactDiv_exactMul_self hv _

/-- The row `EQUALIZE` makes of a row sent behind a nonzero gain, from the inverse of that gain. -/
theorem row_equalized_of_gain {H t : List (Cx ℝ)} (hlen : H.length = t.length) (hH : ∀ h ∈ H, h ≠ ⟨0, 0⟩) :
    (((List.zipWith exactMul H t).zip (H.map (exactDiv ⟨1, 0⟩))).map fun vc => narrowC exactNumerics
      (exactNumerics.cmul (widenC exactNumerics vc.1) (widenC exactNumerics vc.2))) = t := by
  refine List.ext_getElem (by simp [hlen]) fun i _ hi => ?_
  simp only [List.getElem_map, List.getElem_zip, List.getElem_zipWith]
  exact exactMul_exactDiv_one (hH _ (List.getElem_mem (hlen ▸ hi))) _

theorem rowOf_equalize {S R : Type} (ν : Numerics S R) {pilot j : ℕ} (h1 : 1 ≤ j) (hj : j ≠ pilot)
    (syms : List (List (Cx S))) (chan : List (Cx S)) :
    rowOf (equalize ν pilot syms chan) j =
      ((rowOf syms j).zip chan).map fun vc => narrowC ν (ν.cmul (widenC ν vc.1) (widenC ν vc.2)) := by
  have hne : j - 1 + 1 ≠ pilot := by omega
  simp only [rowOf, equalize, List.getD_eq_getElem?_getD, List.getElem?_mapIdx, if_neg hne]
  cases syms[j - 1]? <;> rfl

/-- Settles O45: the pilot's row gives the inverse of the gain, and every other row is multiplied by it. -/
theorem equalizationRemovesGain : Obligations.EqualizationRemovesGain := by
  intro pilot H y T free _ _ hHlen hylen hT hpilot hH hy syms chan
  have hchan : chan = H.map (exactDiv ⟨1, 0⟩) :=
    chanEst_of_gain (hHlen.trans hylen.symm) hH hy ((rowOf_map_gain H T pilot).trans (hpilot ▸ rfl)) free
  refine ⟨hchan, fun j h1 h9 hj => ?_⟩
  have hrow : H.length = (rowOf T j).length := hHlen.trans (length_rowOf hT h1 h9).symm
  calc rowOf (equalize exactNumerics pilot syms chan) j
      = _ := rowOf_equalize exactNumerics h1 hj syms chan
    _ = rowOf T j := by rw [rowOf_map_gain, hchan, row_equalized_of_gain hrow hH]

end Sys2Proof.Machine
end

section
/-!
PROOFS. `QPSK_DEMAP` when `READY` (spec 45_qpsk_demapper R240): the two tests of a component are those of its sign.
-/

namespace Sys2Proof.Machine

open Sys2Proof Sys2Proof.Terms

/-! ### The sign tests by the rank -/

theorem f32Rank_zero : f32Rank 0 = 0 := by decide

theorem f32Pos_iff (x : F32) : f32Pos x = true ↔ 0 < f32Rank x ∧ f32Rank x ≤ 0x7F800000 := by
  rw [f32Pos, f32Gt_iff, f32IsNan_eq_false_iff, f32IsNan_eq_false_iff, f32Rank_zero]
  omega

theorem f32Neg_iff (x : F32) : f32Neg x = true ↔ -0x7F800000 ≤ f32Rank x ∧ f32Rank x < 0 := by
  rw [f32Neg, f32Gt_iff, f32IsNan_eq_false_iff, f32IsNan_eq_false_iff, f32Rank_zero]
  omega

/-! ### The sign by the tests -/

theorem f32Sign_eq_one_iff (x : F32) : f32Sign x = 1 ↔ f32Pos x = true := by
  rw [f32Pos_iff, f32Sign, f32Rank, f32Magnitude]
  omega

theorem f32Sign_eq_neg_one_iff (x : F32) : f32Sign x = -1 ↔ f32Neg x = true := by
  have hx : x.toNat < 2 ^ 32 := x.isLt
  rw [f32Neg_iff, f32Sign, f32Rank, f32Magnitude]
  omega

/-! ### The operation -/

theorem exec_qpskDemap_ready {s : State} {r : Regs} (hs : s.inst = .ready r) (v : C32) :
    exec (.qpskDemap v) s = .next (s.withReply (.bitPair (qpskDemap v).1 (qpskDemap v).2)) :=
  directOp_ready hs

/-- The reply as a function of the two signs (R240). -/
theorem bitPair_qpskDemap (v : C32) :
    Reply.bitPair (qpskDemap v).1 (qpskDemap v).2 =
      if f32Sign v.re = 1 ∧ f32Sign v.im = 1 then .bitPair false false
      else if f32Sign v.re = 1 ∧ f32Sign v.im = -1 then .bitPair false true
      else if f32Sign v.re = -1 ∧ f32Sign v.im = 1 then .bitPair true false
      else .bitPair true true := by
  simp only [qpskDemap, quadrantBits, f32Sign_eq_one_iff, f32Sign_eq_neg_one_iff, Bool.and_eq_true]
  split_ifs <;> rfl

/-- Settles O46: the rule tests the signs in the order of the table. -/
theorem qpskDemapResult : Obligations.QpskDemapResult := by
  intro s r v hs
  rw [exec_qpskDemap_ready hs, bitPair_qpskDemap]
  rfl

end Sys2Proof.Machine
end

section
/-!
PROOFS. `BIT_SELECT` when `READY` (spec 45_qpsk_demapper R243, R241): `DATA_SYMS` names six of the nine rows whatever the
instance gives for it, and their bits stand one after the other.
-/

namespace Sys2Proof.Machine

open Sys2Proof

/-! ### `DATA_SYMS` -/

theorem dataSymsOk_iff (l : List ℕ) :
    dataSymsOk l = true ↔ l.length = 6 ∧ l.Nodup ∧ ∀ j ∈ l, 1 ≤ j ∧ j ≤ 9 ∧ j ≠ 4 ∧ j ≠ 6 := by
  simp [dataSymsOk, and_assoc]

/-- A value out of its constraint is replaced by the reference value, which satisfies it (D24). -/
theorem dataSymsOk_dataSyms (P : Params) : dataSymsOk P.dataSyms = true := by
  unfold Params.dataSyms
  split
  case isTrue h => exact h
  case isFalse => decide

/-! ### Pieces of one length, one after the other -/

section Pieces

variable {α β : Type} {f : α → List β} {n : ℕ}

theorem length_flatMap_of_length_eq {l : List α} (h : ∀ a ∈ l, (f a).length = n) :
    (l.flatMap f).length = n * l.length := by
  rw [List.length_flatMap, List.map_congr_left h, List.map_const', List.sum_replicate, smul_eq_mul, mul_comm]

/-- Element `k` of piece `m`. -/
theorem getElem?_flatMap_of_length_eq {l : List α} (h : ∀ a ∈ l, (f a).length = n) {m k : ℕ} (hm : m < l.length)
    (hk : k < n) : (l.flatMap f)[n * m + k]? = (f l[m])[k]? := by
  induction l generalizing m with
  | nil => exact absurd hm (Nat.not_lt_zero m)
  | cons a l ih =>
    have ha : (f a).length = n := h a List.mem_cons_self
    rw [List.flatMap_cons]
    cases m with
    | zero => rw [Nat.mul_zero, Nat.zero_add, List.getElem?_append_left (ha.symm ▸ hk), List.getElem_cons_zero]
    | succ m =>
      rw [List.getElem?_append_right (by rw [ha, Nat.mul_succ]; omega),
        show n * (m + 1) + k - (f a).length = n * m + k by rw [ha, Nat.mul_succ]; omega, List.getElem_cons_succ]
      exact ih (fun b hb => h b (List.mem_cons_of_mem a hb)) (Nat.lt_of_succ_lt_succ hm)

end Pieces

/-! ### The operation -/

theorem exec_bitSelect_ready {s : State} {r : Regs} (hs : s.inst = .ready r) (bits9 : List (List Bool)) :
    exec (.bitSelect bits9) s = .next (s.withReply (.bits (bitSelect Config.params bits9))) :=
  directOp_ready hs

/-- Settles O47: each symbol of `DATA_SYMS` is one of the nine rows, so the selected bits are six pieces of 1200. -/
theorem bitSelectResult : Obligations.BitSelectResult := by
  intro s r bits9 hs hg
  obtain ⟨hlen, hnodup, hsyms⟩ := (dataSymsOk_iff _).1 (dataSymsOk_dataSyms Config.params)
  have hrows : ∀ j ∈ Config.params.dataSyms, (rowOf bits9 j).length = 1200 := fun j hj =>
    have ⟨h1, h9, _⟩ := hsyms j hj
    length_rowOf hg h1 h9
  refine ⟨selectedBits Config.params.dataSyms bits9, exec_bitSelect_ready hs bits9, ?_, hlen, hnodup, hsyms,
    fun m k hm hk => ?_⟩
  · rw [selectedBits, length_flatMap_of_length_eq hrows, hlen]
  · have hm' : m < Config.params.dataSyms.length := hlen.symm ▸ hm
    rw [selectedBits, getElem?_flatMap_of_length_eq hrows hm' hk, List.getD_eq_getElem _ _ hm']
    rfl

end Sys2Proof.Machine
end

section
/-!
PROOFS. `RATE_DEMATCH` and `SOFT_MAP` when `READY` (spec 46_turbo_decoder R260, R264 to R267): the values received for an
element are those whose selected position holds it, one or two of them, and their sum is what is dematched.
-/

namespace Sys2Proof.Machine

open Sys2Proof Sys2Proof.Terms

section Ready

variable {s : State} {r : Regs}

theorem exec_softMap_ready (hs : s.inst = .ready r) (bits : List Byte) :
    exec (.softMap bits) s = .next (s.finish ((softMap bits).map Reply.soft)) :=
  directOp_ready hs

theorem exec_rateDematch_ready (hs : s.inst = .ready r) (soft : List S8) :
    exec (.rateDematch soft) s = .next (s.finish ((rateDematch soft).map Reply.streams)) :=
  directOp_ready hs

theorem exec_decode_ready (hs : s.inst = .ready r) (bits : List Byte) :
    exec (.decode bits) s = .next (s.finish ((decodeBlock Config.params bits).map Reply.block)) :=
  directOp_ready hs

end Ready

/-! ### The received values of an element (46 R264) -/

/-- The indices of the received values that element `i` of stream `σ` is sent as, in order. -/
def sentAt (σ i : ℕ) : List ℕ := (List.range 7200).filter fun k => source (selection.getD k 0) = (σ, i)

theorem mem_sentAt {σ i k : ℕ} : k ∈ sentAt σ i ↔ k < 7200 ∧ source (selection.getD k 0) = (σ, i) := by
  simp [sentAt]

theorem length_sentAt (σ i : ℕ) : (sentAt σ i).length = timesSent σ i := rfl

/-- A position that is not a `NULL` holds an element exactly where it is the position of that element. -/
theorem source_eq_iff {p σ i : ℕ} (hp : p < 4320) (hn : isNull p = false) (hσ : σ < 3) (hi : i < 1412) :
    source p = (σ, i) ↔ p = bufferPosition σ i := by
  constructor
  · intro h
    rw [← (bufferPosition_source hp hn).2.2, h]
  · rintro rfl
    exact (source_bufferPosition hσ hi).2.2

theorem selection_getD_mem {k : ℕ} (hk : k < 7200) : selection.getD k 0 ∈ selection := by
  have hk' : k < selection.length := selection_length.symm ▸ hk
  rw [List.getD_eq_getElem _ _ hk']
  exact List.getElem_mem hk'

/-- The values of an element are those whose selected position is the element's. -/
theorem sentAt_eq_filter_position {σ i : ℕ} (hσ : σ < 3) (hi : i < 1412) :
    sentAt σ i = (List.range 7200).filter fun k => selection.getD k 0 == bufferPosition σ i := by
  refine List.filter_congr fun k hk => ?_
  obtain ⟨hp, hn⟩ := mem_selection.1 (selection_getD_mem (List.mem_range.1 hk))
  exact decide_eq_decide.2 (source_eq_iff hp hn hσ hi)

theorem timesSent_eq_count {σ i : ℕ} (hσ : σ < 3) (hi : i < 1412) :
    timesSent σ i = selection.count (bufferPosition σ i) := by
  rw [eq_map_range_getD selection_length 0, List.count, List.countP_map, List.countP_eq_length_filter, ← length_sentAt,
    sentAt_eq_filter_position hσ hi]
  rfl

theorem timesSent_eq_one_or_two {σ i : ℕ} (hσ : σ < 3) (hi : i < 1412) : timesSent σ i = 1 ∨ timesSent σ i = 2 := by
  obtain ⟨hp, hn, -⟩ := source_bufferPosition hσ hi
  rw [timesSent_eq_count hσ hi]
  exact count_selection hp hn

/-! ### The sum of them (46 R265) -/

theorem filter_zip_eq_map_range {idx : List ℕ} {soft : List S8} {n : ℕ} (hidx : idx.length = n) (hsoft : soft.length = n)
    (p : ℕ) :
    ((idx.zip (soft.map BitVec.toInt)).filter fun kv => kv.1 == p).map (·.2) =
      ((List.range n).filter fun k => idx.getD k 0 == p).map fun k => (soft.getD k 0).toInt := by
  rw [List.zip_map_right, zip_map_eq_map_range hidx hsoft 0 0, List.filter_map, List.map_map]
  rfl

/-- Element `i` of stream `σ` is the sum of the values received for it. -/
theorem dematched_getElem? {soft : List S8} (hlen : soft.length = 7200) {σ i : ℕ} (hσ : σ < 3) (hi : i < 1412) :
    (Streams.get (streamsOfAcc (dematchAcc soft)) σ)[i]? =
      some (((sentAt σ i).map fun k => (soft.getD k 0).toInt).sum) := by
  obtain ⟨hp, -, -⟩ := source_bufferPosition hσ hi
  rw [(streamsOfAcc_get _ hσ hi).2, dematchAcc_getD soft hp, filter_zip_eq_map_range selection_length hlen,
    sentAt_eq_filter_position hσ hi]

/-- Settles O50: element by element, the sum of the values received for it. -/
theorem rateDematchResult : Obligations.RateDematchResult := by
  intro s r soft hs hlen
  refine ⟨streamsOfAcc (dematchAcc soft), ?_, fun σ hσ => ⟨?_, fun i hi => dematched_getElem? hlen hσ hi⟩⟩
  · rw [exec_rateDematch_ready hs, rateDematch, checkSize_ok hlen]
    rfl
  · exact (streamsOfAcc_get _ hσ (by norm_num : 0 < 1412)).1

/-! ### The sum of them where they are sent bits (46 R266, R267) -/

theorem rateMatch_length (d : Streams Bool) : (rateMatch d).length = 7200 := by
  rw [rateMatch, List.length_map, selection_length]

theorem softOfBool_toInt (b : Bool) : (softOfBool b).toInt = if b then 63 else -63 := by
  cases b <;> rfl

/-- What is received for an element that holds `b` is the soft value of `b`. -/
theorem soft_rateMatch_getD {d : Streams Bool} {σ i k : ℕ} {b : Bool} (hb : (Streams.get d σ)[i]? = some b)
    (hk : k ∈ sentAt σ i) : ((rateMatch d).map softOfBool).getD k 0 = softOfBool b := by
  obtain ⟨hlt, hsrc⟩ := mem_sentAt.1 hk
  have hk' : k < selection.length := selection_length.symm ▸ hlt
  rw [List.getD_eq_getElem _ _ hk'] at hsrc
  simp [rateMatch, hk', hsrc, hb]

/-- An element that holds `b` is dematched to 63 or -63 for each time it was sent. -/
theorem dematchBits_rateMatch_getElem? {d : Streams Bool} {σ i : ℕ} (hσ : σ < 3) (hi : i < 1412) {b : Bool}
    (hb : (Streams.get d σ)[i]? = some b) :
    (Streams.get (dematchBits (rateMatch d)) σ)[i]? = some ((timesSent σ i : ℤ) * if b then 63 else -63) := by
  have hconst : (sentAt σ i).map (fun k => (((rateMatch d).map softOfBool).getD k 0).toInt) =
      List.replicate (timesSent σ i) (if b then 63 else -63) := by
    rw [← length_sentAt, ← List.map_const']
    exact List.map_congr_left fun k hk => by rw [soft_rateMatch_getD hb hk, softOfBool_toInt]
  rw [dematchBits, dematched_getElem? (by rw [List.length_map, rateMatch_length]) hσ hi, hconst, List.sum_replicate,
    nsmul_eq_mul]

/-- Settles O52: each value received for an element is the soft value of its bit, and there are one or two of them. -/
theorem rateMatchRoundTrip : Obligations.RateMatchRoundTrip := by
  intro d hd
  have hsoft : softMap ((rateMatch d).map byteOfBit) = .ok ((rateMatch d).map softOfBool) := by
    rw [softMap, checkSize_ok (by rw [List.length_map, rateMatch_length]), softMapFrom_bits]
  have hdem : rateDematch ((rateMatch d).map softOfBool) = .ok (dematchBits (rateMatch d)) := by
    rw [rateDematch, checkSize_ok (by rw [List.length_map, rateMatch_length]), dematchBits]
  refine ⟨_, _, hsoft, hdem, fun σ i hσ hi => ⟨timesSent_eq_one_or_two hσ hi, fun b hb => ?_⟩⟩
  rw [dematchBits_rateMatch_getElem? hσ hi hb, mul_ite, mul_neg, mul_comm]

/-! ### `SOFT_MAP` (46 R260) -/

theorem softOfBit_of_bit {b : Byte} (hb : b = 0 ∨ b = 1) : softOfBit b = some (if b = 1 then 63 else -63) := by
  rcases hb with rfl | rfl <;> rfl

theorem softOfBit_of_other {b : Byte} (h0 : b ≠ 0) (h1 : b ≠ 1) : softOfBit b = none := by
  rw [softOfBit, if_neg h0, if_neg h1]

theorem softMapFrom_ok {bits : List Byte} (h : ∀ b ∈ bits, b = 0 ∨ b = 1) (n : ℕ) :
    softMapFrom n bits = .ok (bits.map fun b => if b = 1 then 63 else -63) := by
  induction bits generalizing n with
  | nil => rfl
  | cons b bs ih =>
    obtain ⟨hb, hbs⟩ := List.forall_mem_cons.1 h
    simp only [softMapFrom, softOfBit_of_bit hb, ih hbs, List.map_cons]

/-- The first element that is no bit is the one reported. -/
theorem softMapFrom_error {bits : List Byte} {k : ℕ} {v : Byte} (hv : bits[k]? = some v) (h0 : v ≠ 0) (h1 : v ≠ 1)
    (h : ∀ b ∈ bits.take k, b = 0 ∨ b = 1) (n : ℕ) :
    softMapFrom n bits = .error ⟨.eBitValue, .softMap, .bitValue (n + k) v⟩ := by
  induction bits generalizing k n with
  | nil => simp at hv
  | cons b bs ih =>
    cases k with
    | zero =>
      obtain rfl : b = v := by simpa using hv
      simp only [softMapFrom, softOfBit_of_other h0 h1, Nat.add_zero]
    | succ k =>
      rw [List.take_succ_cons] at h
      obtain ⟨hb, hbs⟩ := List.forall_mem_cons.1 h
      simp only [softMapFrom, softOfBit_of_bit hb, ih (by simpa using hv) hbs, Nat.add_right_comm, Nat.add_assoc]

/-- Settles O48: either every element is a bit, or the first that is none ends the mapping and `DECODE` with it. -/
theorem softMapResult : Obligations.SoftMapResult := by
  intro s r bits hs hlen
  refine ⟨fun hbits => ?_, fun k v hv h0 h1 hbits => ?_⟩
  · rw [exec_softMap_ready hs, softMap, checkSize_ok hlen, softMapFrom_ok hbits]
    rfl
  · have herr : softMap bits = .error ⟨.eBitValue, .softMap, .bitValue k v⟩ := by
      rw [softMap, checkSize_ok hlen, softMapFrom_error hv h0 h1 hbits, Nat.zero_add]
    have hdec : decodeBlock Config.params bits = .error ⟨.eBitValue, .softMap, .bitValue k v⟩ := by
      rw [decodeBlock, decodeRun, checkSize_ok hlen, herr]
      rfl
    exact ⟨by rw [exec_softMap_ready hs, herr]; rfl, by rw [exec_decode_ready hs, hdec]; rfl⟩

end Sys2Proof.Machine
end

section
/-!
PROOFS. The bits of a byte vector and of its checksum trailer (spec 20_memory R72, 46_turbo_decoder R273, 47_crc24_validator
R300, R302): packing and unpacking are inverse, and a block that ends in its own checksum has residual 0.
-/

namespace Sys2Proof.Machine

open Sys2Proof

/-! ### Unpacking (20 R72) -/

@[simp] theorem byteBits_length (b : Byte) : (byteBits b).length = 8 := by
  rw [byteBits, List.length_map, List.length_range]

theorem byteBits_getElem? (b : Byte) {i : ℕ} (hi : i < 8) : (byteBits b)[i]? = some (b.getLsbD (7 - i)) := by
  rw [byteBits, List.getElem?_map, List.getElem?_range hi, Option.map_some]

theorem bytesBits_length (b : List Byte) : (bytesBits b).length = 8 * b.length :=
  length_flatMap_of_length_eq fun x _ => byteBits_length x

/-- Bit `i` of byte `m`, the most significant being bit 0. -/
theorem bytesBits_getElem? {b : List Byte} {m i : ℕ} (hm : m < b.length) (hi : i < 8) :
    (bytesBits b)[8 * m + i]? = some (b[m].getLsbD (7 - i)) := by
  rw [bytesBits, getElem?_flatMap_of_length_eq (fun x _ => byteBits_length x) hm hi, byteBits_getElem? _ hi]

/-! ### Packing (46 R273) -/

/-- The weighted sum of eight bits is the byte that has them, most significant first. -/
theorem packByte_eq_ofFnBE (bits : List Bool) : packByte bits = BitVec.ofFnBE fun i : Fin 8 => bits.getD i false := by
  have hsum : ((List.range 8).map fun i => (bits.getD i false).toNat * 2 ^ (7 - i)).sum =
      Nat.ofBits ((fun i : Fin 8 => bits.getD i false) ∘ Fin.rev) := by
    simp [Nat.ofBits_succ, List.range_succ, Fin.rev]
    omega
  refine BitVec.eq_of_toNat_eq ?_
  rw [packByte, hsum, BitVec.toNat_ofNat, Nat.mod_eq_of_lt (Nat.ofBits_lt_two_pow _), BitVec.toNat_ofFnBE]

theorem packByte_getLsbD (bits : List Bool) {i : ℕ} (hi : i < 8) :
    (packByte bits).getLsbD (7 - i) = bits.getD i false := by
  rw [packByte_eq_ofFnBE, BitVec.getLsbD_ofFnBE, dif_pos (by omega)]
  congr 1
  simp only [Fin.rev]
  omega

theorem packBytes_getElem? (c : List Bool) {m : ℕ} (hm : m < 176) :
    (packBytes c)[m]? = some (packByte ((c.drop (8 * m)).take 8)) := by
  rw [packBytes, List.getElem?_map, List.getElem?_range hm, Option.map_some]

/-- Bit `8 * m + i` of what is packed is bit `i` of byte `m`, the most significant being bit 0. -/
theorem packBytes_getLsbD (c : List Bool) {m i : ℕ} (hm : m < 176) (hi : i < 8) :
    ((packBytes c).getD m 0).getLsbD (7 - i) = c.getD (8 * m + i) false := by
  rw [List.getD_eq_getElem?_getD, packBytes_getElem? c hm, Option.getD_some, packByte_getLsbD _ hi]
  simp [List.getD_eq_getElem?_getD, List.getElem?_take_of_lt hi]

/-- A block is packed from its own bits. -/
theorem packBytes_bytesBits {b : List Byte} (hb : b.length = 176) : packBytes (bytesBits b) = b := by
  refine List.ext_getElem ((packBytes_length _).trans hb.symm) fun m hm hm' => ?_
  refine BitVec.eq_of_getLsbD_eq fun j hj => ?_
  have hm176 : m < 176 := hb ▸ hm'
  have hbit := packBytes_getLsbD (bytesBits b) hm176 (i := 7 - j) (by omega)
  rw [List.getD_eq_getElem _ _ hm, List.getD_eq_getElem?_getD, bytesBits_getElem? hm' (by omega), Option.getD_some,
    show 7 - (7 - j) = j by omega] at hbit
  exact hbit

/-! ### A checksum behind what it is the checksum of (47 R302) -/

/-- The bit that cancels the register's own most significant bit shifts it out. -/
theorem crcBit_msb (r : BitVec 24) : crcBit r r.msb = r <<< 1 := by
  simp [crcBit]

/-- A register fed its own leading bits shifts them out. -/
theorem foldl_crcBit_leadingBits (r : BitVec 24) (n : ℕ) : ((List.range n).map r.getMsbD).foldl crcBit r = r <<< n := by
  induction n with
  | zero => simp
  | succ n ih =>
    have hmsb : r.getMsbD n = (r <<< n).msb := by rw [BitVec.msb, BitVec.getMsbD_shiftLeft, Nat.zero_add]
    rw [List.range_succ, List.map_append, List.foldl_append, ih, List.map_singleton, List.foldl_cons, List.foldl_nil, hmsb,
      crcBit_msb, BitVec.shiftLeft_add]

theorem bytesBits_crcTrailer (v : BitVec 24) : bytesBits (crcTrailer v) = (List.range 24).map v.getMsbD := by
  simp [bytesBits, crcTrailer, byteBits, List.range_succ, BitVec.getMsbD]

/-- The residual of a byte vector with its checksum attached is 0. -/
theorem crc24_append_crcTrailer (b : List Byte) : crc24 (b ++ crcTrailer (crc24 b)) = 0 := by
  rw [crc24_eq, crcFrom_append, ← crc24_eq, crcFrom, bytesBits_crcTrailer, foldl_crcBit_leadingBits,
    BitVec.shiftLeft_eq_zero (by norm_num)]
  rfl

end Sys2Proof.Machine
end

section
/-!
PROOFS. `TURBO_DECODE` and `DECODE` when `READY` (spec 46_turbo_decoder R271 to R274, R282, R283): the bits of a block are
the signs of the systematic stream of its dematched codeword, so that the decoder answers with them (log entry 6).
-/

namespace Sys2Proof.Machine

open Sys2Proof Sys2Proof.Terms

/-! ### The three streams of a codeword (46 R271) -/

theorem rscRun_length (q : RscState) (c : List Bool) : (rscRun q c).1.length = c.length := by
  induction c generalizing q with
  | nil => rfl
  | cons u us ih => rw [rscRun, List.length_cons, List.length_cons, ih]

theorem interleave_length {α : Type} (fill : α) (c : List α) : (interleave fill c).length = 1408 := by
  rw [interleave, List.length_map, List.length_range]

theorem Streams.get_zero {α : Type} (d : Streams α) : Streams.get d 0 = d.d0 := rfl

theorem turboEncode_length {c : List Bool} (hc : c.length = 1408) {σ : ℕ} (hσ : σ < 3) :
    (Streams.get (turboEncode c) σ).length = 1412 := by
  have hσ' : σ = 0 ∨ σ = 1 ∨ σ = 2 := by omega
  rcases hσ' with rfl | rfl | rfl <;>
    simp [Streams.get, turboEncode, constituent, rscRun_length, interleave_length, hc]

/-- The systematic stream begins with the block. -/
theorem turboEncode_systematic {u : List Bool} {i : ℕ} (hi : i < u.length) :
    (Streams.get (turboEncode u) 0)[i]? = some u[i] := by
  simp [Streams.get, turboEncode, List.getElem?_append_left hi, hi]

/-- Each bit of a block is dematched to 63 or -63 for each time it was sent. -/
theorem dematchBits_codeword_systematic {u : List Bool} (hu : u.length = 1408) {i : ℕ} (hi : i < u.length) :
    (dematchBits (codeword u)).d0[i]? = some ((timesSent 0 i : ℤ) * if u[i] then 63 else -63) := by
  rw [← Streams.get_zero, codeword, dematchBits_rateMatch_getElem? (by norm_num) (by omega) (turboEncode_systematic hi)]

theorem codeword_length (c : List Bool) : (codeword c).length = 7200 := rateMatch_length _

/-! ### (T1) (46 R274) -/

theorem zero_lt_soft_iff {n : ℕ} (hn : n = 1 ∨ n = 2) (b : Bool) : 0 < (n : ℤ) * (if b then 63 else -63) ↔ b = true := by
  rcases hn with rfl | rfl <;> cases b <;> decide

/-- Soft values received once or twice for each bit have the bits as their signs (46 R267). -/
theorem signs_of_soft {x : List ℤ} {u : List Bool} {times : ℕ → ℕ} (hlen : u.length ≤ x.length)
    (htimes : ∀ i, i < u.length → times i = 1 ∨ times i = 2)
    (hx : ∀ i (hi : i < u.length), x[i]? = some ((times i : ℤ) * if u[i] then 63 else -63)) :
    (x.take u.length).map (fun v => decide (0 < v)) = u := by
  refine List.ext_getElem (by simp [hlen]) fun i _ hi => ?_
  obtain ⟨_, hxi⟩ := List.getElem_of_getElem? (hx i hi)
  simp only [List.getElem_map, List.getElem_take, hxi, zero_lt_soft_iff (htimes i hi), Bool.decide_eq_true]

theorem signs_dematchBits_codeword {u : List Bool} (hu : u.length = 1408) :
    ((dematchBits (codeword u)).d0.take 1408).map (fun v => decide (0 < v)) = u := by
  have hlen : (dematchBits (codeword u)).d0.length = 1412 := by
    rw [← Streams.get_zero, dematchBits_length _ (by norm_num)]
  have hsigns := signs_of_soft (times := timesSent 0) (by rw [hlen, hu]; norm_num)
    (fun i hi => timesSent_eq_one_or_two (by norm_num) (by omega)) fun i => dematchBits_codeword_systematic hu
  rwa [hu] at hsigns

theorem codewordSource_of_signs {ds : Streams ℤ} {c : List Bool} (hc : c.length = 1408)
    (hsigns : ((ds.d0.take 1408).map fun v => decide (0 < v)) = c) (hds : dematchBits (codeword c) = ds) :
    codewordSource ds = some c := by
  subst hsigns
  exact if_pos ⟨hc, hds⟩

theorem codewordSource_length {ds : Streams ℤ} {c : List Bool} (h : codewordSource ds = some c) : c.length = 1408 := by
  simp only [codewordSource, Option.ite_none_right_eq_some, Option.some.injEq] at h
  obtain ⟨⟨hc, -⟩, rfl⟩ := h
  exact hc

theorem turboDec_codeword (P : Params) {c : List Bool} (hc : c.length = 1408) :
    turboDec P (dematchBits (codeword c)) = (0, c) := by
  rw [turboDec, codewordSource_of_signs hc (signs_dematchBits_codeword hc) rfl]

theorem turboDec_length (P : Params) (ds : Streams ℤ) : (turboDec P ds).2.length = 1408 := by
  unfold turboDec
  cases h : codewordSource ds with
  | some c => exact codewordSource_length h
  | none => rw [List.length_map, List.length_range]

/-! ### `TURBO_DECODE` (46 R273) -/

theorem turboDecode_codeword (P : Params) {c : List Bool} (hc : c.length = 1408) :
    turboDecode P (dematchBits (codeword c)) = (0, packBytes c) := by
  rw [turboDecode, turboDec_codeword P hc]

theorem streamsOf_of_lengths {ds : Streams ℤ} (h0 : ds.d0.length = 1412) (h1 : ds.d1.length = 1412)
    (h2 : ds.d2.length = 1412) :
    streamsOf ((some ds.d0).toList ++ (some ds.d1).toList ++ [ds.d2]) = some ds :=
  if_pos ⟨h0, h1, h2⟩

theorem exec_turboDecode_ready {s : State} {r : Regs} (hs : s.inst = .ready r) {ds : Streams ℤ}
    (h0 : ds.d0.length = 1412) (h1 : ds.d1.length = 1412) (h2 : ds.d2.length = 1412) :
    exec (.turboDecode (some ds.d0) (some ds.d1) [ds.d2]) s =
      .next (s.withReply (.decoded (turboDecode Config.params ds).1 (turboDecode Config.params ds).2)) := by
  refine (directOp_ready hs).trans ?_
  simp only [streamsOf_of_lengths h0 h1 h2]

/-- Settles O53: the bits are the decoder's 1408, packed; on a dematched codeword the decoder answers with its block. -/
theorem turboDecodeResult : Obligations.TurboDecodeResult := by
  intro s r ds hs h0 h1 h2
  refine ⟨_, (turboDec Config.params ds).2, _, exec_turboDecode_ready hs h0 h1 h2, turboDec_length _ _, packBytes_length _,
    fun m i hm hi => packBytes_getLsbD _ hm hi, fun c hc hds => ?_⟩
  rw [hds, turboDecode_codeword _ hc, turboDec_codeword _ hc]
  exact ⟨rfl, rfl⟩

/-! ### `DECODE` (46 R282, R283) -/

theorem decodeBlock_bits (P : Params) {e : List Bool} (he : e.length = 7200) :
    decodeBlock P (e.map byteOfBit) = (decodeSoft P (e.map softOfBool)).result := by
  rw [decodeBlock, decodeRun_bits P he]

/-- Settles O54: `DECODE` of bits ends as the stages after the soft mapping do. -/
theorem decodeResult : Obligations.DecodeResult := by
  intro s r e hs he
  refine ⟨packBytes_length _, ?_⟩
  rw [exec_decode_ready hs, decodeBlock_bits _ he, decodeSoft_result]
  generalize turboDecode Config.params (dematchBits e) = out
  split_ifs <;> rfl

theorem turboDecode_codeword_bytesBits (P : Params) {block : List Byte} (hb : block.length = 176) :
    turboDecode P (dematchBits (codeword (bytesBits block))) = (0, block) := by
  rw [turboDecode_codeword P (by rw [bytesBits_length, hb]), packBytes_bytesBits hb]

/-- Settles O55: the decoder answers with the block (T1), and its checksum makes the residual 0. -/
theorem decodeRoundTrip : Obligations.DecodeRoundTrip := by
  intro s r payload hs hp block
  have hb : block.length = 176 := by rw [List.length_append, hp]; rfl
  have hcrc : crc24 block = 0 := crc24_append_crcTrailer payload
  have hdecode := (decodeResult s r (codeword (bytesBits block)) hs (codeword_length _)).2
  rw [turboDecode_codeword_bytesBits Config.params hb] at hdecode
  rw [hdecode, if_neg (not_not.2 rfl), if_neg (not_not.2 hcrc)]

end Sys2Proof.Machine
end

section
/-!
PROOFS. The tables of the code (spec 46_turbo_decoder R261 to R264, R269, R270; log entry 20).
-/

namespace Sys2Proof.Machine

open Sys2Proof

/-- A function that keeps the numbers below `n` and tells them apart permutes them. -/
theorem map_range_perm {n : ℕ} {f : ℕ → ℕ} (hlt : ∀ k, k < n → f k < n)
    (hinj : ∀ j k, j < n → k < n → f j = f k → j = k) : ((List.range n).map f).Perm (List.range n) := by
  have hnodup : ((List.range n).map f).Nodup :=
    List.nodup_range.map_on fun j hj k hk => hinj j k (List.mem_range.1 hj) (List.mem_range.1 hk)
  refine (hnodup.subperm fun y hy => ?_).perm_of_length_le (by rw [List.length_map])
  obtain ⟨k, hk, rfl⟩ := List.mem_map.1 hy
  exact List.mem_range.2 (hlt k (List.mem_range.1 hk))

theorem perm01_injective {j k : ℕ} (hj : j < 1440) (hk : k < 1440) (h : perm01 j = perm01 k) : j = k := by
  rw [← (perm01_inverse j hj).2.2.1, h, (perm01_inverse k hk).2.2.1]

theorem perm2_injective {j k : ℕ} (hj : j < 1440) (hk : k < 1440) (h : perm2 j = perm2 k) : j = k := by
  rw [← (perm2_inverse j hj).2.2.1, h, (perm2_inverse k hk).2.2.1]

/-- The difference of two values of the interleaver's polynomial is the difference of the arguments times a number that is
odd and no multiple of 11, so prime to `1408 = 2^7 * 11`. -/
theorem turboPerm_injective {j k : ℕ} (hj : j < 1408) (hk : k < 1408) (h : turboPerm j = turboPerm k) : j = k := by
  have hdvd : (1408 : ℤ) ∣ (k - j) * ((43 + 88 * (j + k) : ℕ) : ℤ) := by
    have hmod : 43 * j + 88 * j * j ≡ 43 * k + 88 * k * k [MOD 1408] := h
    refine (Nat.modEq_iff_dvd.1 hmod).trans (dvd_of_eq ?_)
    push_cast
    ring
  have hodd : Nat.Coprime 2 (43 + 88 * (j + k)) := by
    rw [Nat.coprime_two_left, Nat.odd_iff]
    omega
  have h11 : Nat.Coprime 11 (43 + 88 * (j + k)) := by
    rw [Nat.Prime.coprime_iff_not_dvd (by norm_num)]
    omega
  have hcop : IsCoprime (1408 : ℤ) ((43 + 88 * (j + k) : ℕ) : ℤ) :=
    Nat.isCoprime_iff_coprime.2 (Nat.Coprime.mul_left (hodd.pow_left 7) h11)
  have := hcop.dvd_of_dvd_mul_right hdvd
  omega

/-- The table of the trellis is the shift register's step (46 R269). -/
theorem trellis_number (q : RscState) (u : Bool) : trellis q.number u = ((rscStep q u).1.number, (rscStep q u).2) := by
  obtain ⟨s1, s2, s3⟩ := q
  revert s1 s2 s3 u
  decide

/-- Settles O51: each permutation by its inverse or its polynomial, the lengths of the walk and the selection by their
lemmas, the spot values by running the tables. -/
theorem codeTables : Obligations.CodeTables :=
  ⟨map_range_perm (fun k hk => (perm01_inverse k hk).1) fun _ _ => perm01_injective,
    map_range_perm (fun k hk => (perm2_inverse k hk).1) fun _ _ => perm2_injective,
    map_range_perm (fun _ _ => Nat.mod_lt _ (by norm_num)) fun _ _ => turboPerm_injective,
    walkOnce_length, selection_length, by decide +kernel, by decide +kernel, trellis_number⟩

end Sys2Proof.Machine
end

section
/-!
PROOFS. The checksum register (spec 47_crc24_validator R300 to R303): it is linear, and the only bits that bring it to 0 are
its own leading bits, so that the two conventions for a block with its checksum agree.
-/

namespace Sys2Proof.Machine

open Sys2Proof

/-! ### Linearity (47 R300) -/

theorem byteBits_xor (x y : Byte) : byteBits (x ^^^ y) = List.zipWith (· ^^ ·) (byteBits x) (byteBits y) := by
  simp [byteBits, List.zipWith_map]

theorem bytesBits_cons (x : Byte) (b : List Byte) : bytesBits (x :: b) = byteBits x ++ bytesBits b := List.flatMap_cons

theorem bytesBits_zipWith_xor (a b : List Byte) :
    bytesBits (List.zipWith (· ^^^ ·) a b) = List.zipWith (· ^^ ·) (bytesBits a) (bytesBits b) := by
  induction a generalizing b with
  | nil => rfl
  | cons x a ih =>
    cases b with
    | nil => rw [List.zipWith_nil_right]; exact List.zipWith_nil_right.symm
    | cons y b =>
      rw [List.zipWith_cons_cons, bytesBits_cons, bytesBits_cons, bytesBits_cons, ih, byteBits_xor,
        List.zipWith_append (by rw [byteBits_length, byteBits_length])]

theorem crc24_replicate_zero (n : ℕ) : crc24 (List.replicate n 0) = 0 := by
  induction n with
  | zero => rfl
  | succ n ih =>
    have hbyte : (byteBits 0).foldl crcBit 0 = 0 := by decide
    rw [List.replicate_succ, crc24_eq, crcFrom_cons, hbyte, ← crc24_eq, ih]

/-- Settles O57: the bits of the exclusive or are the exclusive or of the bits, and the register is linear in its bits. -/
theorem crcLinear : Obligations.CrcLinear := by
  refine ⟨fun a b hab => ?_, crc24_replicate_zero⟩
  have hlen : (bytesBits a).length = (bytesBits b).length := by rw [bytesBits_length, bytesBits_length, hab]
  calc crc24 (List.zipWith (· ^^^ ·) a b)
      = (List.zipWith (· ^^ ·) (bytesBits a) (bytesBits b)).foldl crcBit (0 ^^^ 0) := by
        rw [crc24, bytesBits_zipWith_xor, BitVec.xor_self]
        rfl
    _ = crc24 a ^^^ crc24 b := foldl_crcBit_xor 0 0 _ _ hlen

/-! ### `CRC24_CHECK` (47 R301) -/

/-- Settles O56: the check passes the size check; the two check values by running the register. -/
theorem crcCheckResult : Obligations.CrcCheckResult := by
  refine ⟨fun s r block hs hb => ?_, by decide +kernel, by decide +kernel⟩
  refine (directOp_ready hs).trans ?_
  rw [checkSize_ok hb, State.finish_ok, beq_eq_decide]
  rfl

/-! ### The two conventions (47 R301, R302) -/

theorem bytesBits_injective {a b : List Byte} (h : bytesBits a = bytesBits b) : a = b := by
  have hlen : a.length = b.length := by
    have := congrArg List.length h
    rw [bytesBits_length, bytesBits_length] at this
    omega
  refine List.ext_getElem hlen fun m hm hm' => BitVec.eq_of_getLsbD_eq fun j hj => ?_
  have hbit : (bytesBits a)[8 * m + (7 - j)]? = (bytesBits b)[8 * m + (7 - j)]? := by rw [h]
  rw [bytesBits_getElem? hm (by omega), bytesBits_getElem? hm' (by omega), Option.some.injEq,
    Nat.sub_sub_self (Nat.le_of_lt_succ hj)] at hbit
  exact hbit

/-- A bit other than the register's most significant one brings the polynomial in, and with it bit 0. -/
theorem crcBit_getLsbD_zero {r : BitVec 24} {bit : Bool} (h : bit ≠ r.msb) : (crcBit r bit).getLsbD 0 = true := by
  have hpoly : crcPoly.getLsbD 0 = true := by decide
  have hxor : (r.msb ^^ bit) = true := Bool.xor_iff_ne.2 h.symm
  simp [crcBit, hxor, hpoly]

/-- At most 24 bits that bring the register to 0 are its own leading bits, and it has no others: once the polynomial has been
brought in, 23 further bits cannot shift its bit 0 out. -/
theorem eq_leadingBits_of_foldl_crcBit_eq_zero {r : BitVec 24} {bits : List Bool} (hlen : bits.length ≤ 24)
    (h : bits.foldl crcBit r = 0) : bits = (List.range bits.length).map r.getMsbD ∧ r <<< bits.length = 0 := by
  induction bits generalizing r with
  | nil => exact ⟨rfl, by simpa using h⟩
  | cons bit bits ih =>
    rw [List.length_cons] at hlen
    obtain ⟨hbits, hzero⟩ := ih (Nat.le_of_succ_le hlen) h
    have hbit : bit = r.msb := by
      by_contra hne
      have hset : (crcBit r bit <<< bits.length).getLsbD bits.length = true := by
        rw [BitVec.getLsbD_shiftLeft, Nat.sub_self, crcBit_getLsbD_zero hne]
        simpa using hlen
      simp [hzero] at hset
    subst hbit
    rw [crcBit_msb] at hbits hzero
    refine ⟨?_, ?_⟩
    · rw [List.length_cons, List.range_succ_eq_map, List.map_cons, List.map_map]
      refine congrArg₂ List.cons rfl (hbits.trans (List.map_congr_left fun i _ => ?_))
      rw [BitVec.getMsbD_shiftLeft, Function.comp_apply]
    · rw [List.length_cons, Nat.add_comm, BitVec.shiftLeft_add, hzero]

/-- Three bytes bring the register to 0 exactly when they are its trailer. -/
theorem crcFrom_eq_zero_iff {r : BitVec 24} {last : List Byte} (hlen : last.length = 3) :
    crcFrom r last = 0 ↔ last = crcTrailer r := by
  have hbits : (bytesBits last).length = 24 := by rw [bytesBits_length, hlen]
  constructor
  · intro h
    obtain ⟨heq, -⟩ := eq_leadingBits_of_foldl_crcBit_eq_zero hbits.le h
    rw [hbits, ← bytesBits_crcTrailer] at heq
    exact bytesBits_injective heq
  · rintro rfl
    rw [crcFrom, bytesBits_crcTrailer, foldl_crcBit_leadingBits, BitVec.shiftLeft_eq_zero (by norm_num)]
    rfl

/-- Settles O58: the residual of a block is the register after its last three bytes, started from the checksum of the first
173. -/
theorem crcConventionsAgree : Obligations.CrcConventionsAgree := by
  intro block hblock
  have hlast : (block.drop 173).length = 3 := by rw [List.length_drop, hblock]
  have hresidual : crc24 block = crcFrom (crc24 (block.take 173)) (block.drop 173) := by
    rw [crc24_eq (block.take 173), ← crcFrom_append, List.take_append_drop, crc24_eq]
  rw [hresidual]
  exact crcFrom_eq_zero_iff hlast

end Sys2Proof.Machine
end

section
/-!
PROOFS. What an operation raises and what it leaves alone (spec 60_exceptions R345, R347, R350, R351; 48_system_operations
R322, R323).
-/

namespace Sys2Proof.Machine

open Sys2Proof Sys2Proof.Terms

/-! ### `RESET` and `SET_THRESHOLD` (48 R322, R323) -/

theorem execReset_ready {s : State} {r : Regs} (hs : s.inst = .ready r) :
    execReset s = .next ((s.withRegs r.resetDetector).withReply .done) := by
  simp only [execReset, hs]

theorem execReset_notReady {s : State} (hs : s.instState ≠ .ready) : execReset s = .next (s.withReply .done) := by
  unfold execReset
  split
  · next r hr => exact absurd (State.instState_ready.2 ⟨r, hr⟩) hs
  all_goals rfl

/-- Settles O12: one rule for each operation. -/
theorem resetAndSetThreshold : Obligations.ResetAndSetThreshold :=
  ⟨fun _ _ hs => execReset_ready hs, fun _ hs => execReset_notReady hs, fun _ _ _ hs => directOp_ready hs⟩

/-! ### `E_NOT_READY` (60 R347) -/

/-- Settles O13: the readiness test of the agent's two operations and that of the others. -/
theorem notReadyRefused : Obligations.NotReadyRefused := by
  intro i s hs hreset hconfigure
  cases i with
  | reset => exact absurd rfl hreset
  | configure => exact absurd rfl hconfigure
  | processBlock | processBurst =>
    refine ⟨fun _ => agentOp_notReady hs, fun h1 h2 => ?_⟩
    simp [Instr.op] at h1 h2
  | _ => exact ⟨fun h => by simp [Instr.op] at h, fun _ _ => directOp_notReady hs⟩

/-! ### The frame of the directly issued operations (60 R350) -/

/-- What no operation but the processing agent's writes. -/
def State.SameAgent (s t : State) : Prop := t.lastStatus = s.lastStatus ∧ t.out = s.out ∧ t.issued = s.issued

theorem State.Replies.sameAgent {s t : State} (h : s.Replies t) : s.SameAgent t := by
  obtain ⟨n, v, rfl⟩ := h
  exact ⟨rfl, rfl, rfl⟩

/-- Writing the registers and replying touches nothing of the agent's. -/
theorem State.sameAgent_withRegs (s : State) (r : Regs) (v : Reply) : s.SameAgent ((s.withRegs r).withReply v) :=
  ⟨rfl, rfl, rfl⟩

theorem directOp_sameAgent {stage : Op} {s t : State} {body : Regs → Answer} (h : directOp stage s body = .next t)
    (hb : ∀ r, body r = .next t → s.SameAgent t) : s.SameAgent t := by
  rcases directOp_cases h with ⟨r, -, hr⟩ | ⟨-, ht⟩
  · exact hb r hr
  · cases ht
    exact (s.replies_raiseDirect _).sameAgent

/-- An operation that is not the processing agent's writes registers and replies, or only replies. -/
theorem exec_sameAgent {i : Instr} {s t : State} (hi : i.op ∉ [.configure, .processBlock, .processBurst])
    (h : exec i s = .next t) : s.SameAgent t := by
  cases i with
  | configure | processBlock | processBurst => simp [Instr.op] at hi
  | reset =>
    by_cases hs : s.instState = .ready
    · obtain ⟨r, hr⟩ := State.instState_ready.1 hs
      cases (execReset_ready hr).symm.trans h
      exact s.sameAgent_withRegs _ _
    · cases (execReset_notReady hs).symm.trans h
      exact (s.replies_withReply _).sameAgent
  | setThreshold | xcorrInit | xcorrPush =>
    refine directOp_sameAgent h fun r hb => ?_
    cases hb
    exact s.sameAgent_withRegs _ _
  | fsmBlock =>
    refine directOp_sameAgent h fun r hb => ?_
    split at hb
    · cases hb
      exact s.sameAgent_withRegs _ _
    · cases hb
      exact (s.replies_raiseDirect _).sameAgent
  | _ => exact (exec_replies (by simp [Instr.op]) h).sameAgent

/-- Settles O14: a pure operation replies; the others that are not the agent's write the registers and reply. -/
theorem unitOperationFrame : Obligations.UnitOperationFrame :=
  fun _ _ _ h => ⟨fun hi => exec_sameAgent hi h, fun hi => (exec_replies hi h).inst_eq⟩

/-! ### `E_SIZE` (60 R345) -/

section Size

variable {s : State} {r : Regs}

/-- A directly issued operation whose result is an error raises it. -/
theorem directOp_finish_error {stage : Op} {x : Regs → Except Record Reply} {e : Record} (hs : s.inst = .ready r)
    (hx : x r = .error e) : directOp stage s (fun r => .next (s.finish (x r))) = .next (s.raiseDirect e) := by
  rw [directOp_ready hs, hx, State.finish_error]

theorem softMap_bad {bits : List Byte} (h : bits.length ≠ 7200) :
    softMap bits = .error (sizeError .softMap bits.length 7200) := checkSize_bad h

theorem rateDematch_bad {soft : List S8} (h : soft.length ≠ 7200) :
    rateDematch soft = .error (sizeError .rateDematch soft.length 7200) := checkSize_bad h

theorem decodeBlock_bad (P : Params) {bits : List Byte} (h : bits.length ≠ 7200) :
    decodeBlock P bits = .error (sizeError .decode bits.length 7200) := by
  rw [decodeBlock, decodeRun, checkSize_bad h]

/-- The operand of `TURBO_DECODE` is refused unless it is three streams of 1412 values (46 R273). -/
theorem streamsOf_eq_none {ds : List (List ℤ)} (h : ¬(ds.length = 3 ∧ ∀ d ∈ ds, d.length = 1412)) :
    streamsOf ds = none := by
  unfold streamsOf
  split
  · refine if_neg fun hlen => h ⟨rfl, ?_⟩
    simpa using hlen
  · rfl

/-- Three streams of one length report it, whatever value is drawn (46 R273, log entry 8). -/
theorem streamsGot_of_lengths {ds : List (List ℤ)} {n : ℕ} (h3 : ds.length = 3) (hn : ∀ d ∈ ds, d.length = n) (free : ℕ) :
    streamsGot ds free = n := by
  obtain ⟨d0, d1, d2, rfl⟩ := List.length_eq_three.1 h3
  have h0 : d0.length = n := hn d0 (by simp)
  have h1 : d1.length = n := hn d1 (by simp)
  have h2 : d2.length = n := hn d2 (by simp)
  rw [streamsGot, if_pos ⟨h0.trans h1.symm, h1.trans h2.symm⟩, h0]

theorem exec_turboDecode_bad (hs : s.inst = .ready r) (d0 d1 : Option (List ℤ)) (d2 : List (List ℤ))
    (h : streamsOf (d0.toList ++ d1.toList ++ d2) = none) :
    exec (.turboDecode d0 d1 d2) s = .next ((s.draw 1).raiseDirect (sizeError .turboDecode
      (streamsGot (d0.toList ++ d1.toList ++ d2) (Config.freeNat s.drawn)) 1412)) := by
  refine (directOp_ready hs).trans ?_
  simp only [h]

end Size

/-- Settles O36: in every operation with a length check the check decides before anything else is done. -/
theorem sizeErrors : Obligations.SizeErrors := by
  intro s r hs err
  exact ⟨fun _ _ _ h => (directOp_ready hs).trans (if_neg h),
    fun _ h => directOp_finish_error hs (checkSize_bad h),
    fun _ h => ⟨(directOp_ready hs).trans (if_neg h), fun _ => directOp_finish_error hs (checkSize_bad h),
      (directOp_ready hs).trans (if_neg h)⟩,
    fun _ h => ⟨directOp_finish_error hs (congrArg (Except.map Reply.soft) (softMap_bad h)),
      directOp_finish_error hs (congrArg (Except.map Reply.block) (decodeBlock_bad _ h))⟩,
    fun _ h => directOp_finish_error hs (congrArg (Except.map Reply.streams) (rateDematch_bad h)),
    fun _ h => directOp_finish_error hs (checkSize_bad h),
    fun d0 d1 d2 h => ⟨_, exec_turboDecode_bad hs d0 d1 d2 (streamsOf_eq_none h),
      fun _ h3 hn => streamsGot_of_lengths h3 hn _⟩,
    fun _ _ h => (agentOp_ready hs).trans (if_neg h),
    fun _ _ _ _ hP h => (agentOp_ready hs).trans (if_pos ⟨hP, h⟩)⟩

/-! ### `E_BIT_VALUE` (60 R351) -/

/-- The first element of which a test holds, and that it holds of none before. -/
theorem exists_first {α : Type} {x : List α} {p : α → Prop} [DecidablePred p] (h : ∃ a ∈ x, p a) :
    ∃ (k : ℕ) (v : α), x[k]? = some v ∧ p v ∧ ∀ a ∈ x.take k, ¬p a := by
  obtain ⟨k, hk⟩ : ∃ k, x.findIdx? (fun a => decide (p a)) = some k := by
    simpa [← Option.isSome_iff_exists] using h
  obtain ⟨hlt, hv, hbefore⟩ := List.findIdx?_eq_some_iff_getElem.1 hk
  refine ⟨k, x[k], List.getElem?_eq_getElem hlt, of_decide_eq_true hv, fun a ha => ?_⟩
  obtain ⟨j, hj, rfl⟩ := List.getElem_of_mem ha
  rw [List.length_take] at hj
  rw [List.getElem_take]
  exact fun hp => hbefore j (by omega) (decide_eq_true hp)

/-- A record that `PROCESS_BURST` replies: the readiness and the size check raise it, or the stages of the burst end with
it, none of which is `E_BIT_VALUE`. -/
theorem processBurst_error_code {P : Params} {burst : List C32} {start : U64} {s t : State} {e : Record}
    (h : processBurst P burst start s = .next t) (he : t.reply = some (.error e)) : e.code ≠ .eBitValue := by
  rcases agentOp_cases h with ⟨r, -, hbody⟩ | ⟨-, ht⟩
  · split at hbody
    · obtain ⟨run, hrun, hend⟩ := orFault_next.1 hbody
      cases hend
      rcases Regs.burstStages_outcome hrun with ⟨bytes, hok, -, -⟩ | ⟨e', herr, hcode⟩
      · rw [State.reportBurst_ok hok] at he
        cases he
      · rw [State.reportBurst_error herr] at he
        cases he
        rcases hcode with hcode | hcode | hcode <;> rw [hcode] <;> decide
    · cases hbody
      cases he
      exact Code.noConfusion
  · cases ht
    cases he
    exact Code.noConfusion

/-- Settles O49: the first offending element is the one O48 speaks of. -/
theorem bitValueErrors : Obligations.BitValueErrors := by
  refine ⟨fun s r bits hs hlen hbad => ?_, fun s t burst start e h he => processBurst_error_code h he⟩
  obtain ⟨k, v, hv, ⟨h0, h1⟩, hbits⟩ := exists_first hbad
  obtain ⟨hsoft, hdecode⟩ := (softMapResult s r bits hs hlen).2 k v hv h0 h1 fun b hb =>
    or_iff_not_imp_left.2 fun hb0 => not_not.1 fun hb1 => hbits b hb ⟨hb0, hb1⟩
  exact ⟨_, rfl, hsoft, hdecode⟩

end Sys2Proof.Machine
end

section
/-!
PROOFS. `CONFIGURE` (spec 48_system_operations R321; 30_encoding R103; 60_exceptions R343, R353): the checks on the sample
rate said of its exact value, and every outcome in the order of the checks.
-/

namespace Sys2Proof.Machine

open Sys2Proof Sys2Proof.Terms

/-! ### The exact value of the sample rate (30 R103) -/

theorem f64Units_pos_iff (x : F64) :
    0 < f64Units x ↔ ¬(x.toNat / 2 ^ 52 % 2 ^ 11 = 0 ∧ x.toNat % 2 ^ 52 = 0) := by
  unfold f64Units
  dsimp only
  split
  · omega
  · have := Nat.two_pow_pos (x.toNat / 2 ^ 52 % 2 ^ 11 - 1)
    simp only [Nat.mul_pos_iff_of_pos_right this]
    omega

/-- A binary64 is positive when its sign bit is 0 and it is no zero. -/
theorem f64Value_pos_iff (x : F64) :
    0 < f64Value x ↔ x.toNat / 2 ^ 63 ≠ 1 ∧ ¬(x.toNat / 2 ^ 52 % 2 ^ 11 = 0 ∧ x.toNat % 2 ^ 52 = 0) := by
  have hunits : (0 : ℚ) ≤ f64Units x := Nat.cast_nonneg _
  rw [← f64Units_pos_iff, f64Value_eq_units, mul_pos_iff_of_pos_right leastF64_pos, signFactor]
  generalize x.toNat / 2 ^ 63 = sign
  by_cases hsign : sign = 1
  · simp [hsign]
  · simp [hsign]

theorem f64Positive_eq_none_iff (x : F64) : f64Positive x = none ↔ ¬(f64Finite x ∧ 0 < f64Value x) := by
  have hbad : (x.toNat / 2 ^ 63 = 1 ∨ x.toNat / 2 ^ 52 % 2 ^ 11 = 2047 ∨
      x.toNat / 2 ^ 52 % 2 ^ 11 = 0 ∧ x.toNat % 2 ^ 52 = 0) ↔ ¬(f64Finite x ∧ 0 < f64Value x) := by
    rw [f64Value_pos_iff, f64Finite]
    tauto
  rw [← hbad, f64Positive]
  split_ifs with h
  · exact iff_of_true rfl h
  all_goals exact iff_of_false not_false h

theorem exists_f64Positive {x : F64} (hfin : f64Finite x) (hpos : 0 < f64Value x) :
    ∃ quot, f64Positive x = some quot :=
  Option.ne_none_iff_exists'.1 fun hnone => (f64Positive_eq_none_iff x).1 hnone ⟨hfin, hpos⟩

/-- The quotient of naturals that a positive binary64 is. -/
theorem f64Value_of_f64Positive {x : F64} {num den : ℕ} (h : f64Positive x = some (num, den)) :
    0 < den ∧ f64Value x = (num : ℚ) / den := by
  unfold f64Positive at h
  unfold f64Value
  dsimp only at h ⊢
  generalize x.toNat / 2 ^ 52 % 2 ^ 11 = expo at h ⊢
  split_ifs at h with hbad hzero hlarge <;> simp only [Option.some.injEq, Prod.mk.injEq] at h <;> obtain ⟨rfl, rfl⟩ := h
  all_goals rw [if_neg fun hsign => hbad (.inl hsign)]
  · refine ⟨pow_pos Nat.two_pos 1074, ?_⟩
    rw [if_pos hzero, one_mul, zpow_neg, div_eq_mul_inv, Nat.cast_pow, Nat.cast_ofNat, zpow_ofNat]
  · refine ⟨Nat.one_pos, ?_⟩
    rw [if_neg hzero, show (expo : ℤ) - 1075 = (expo - 1075 : ℕ) by omega, zpow_natCast, Nat.cast_one, div_one]
    push_cast
    ring
  · refine ⟨Nat.two_pow_pos _, ?_⟩
    rw [if_neg hzero, show (expo : ℤ) - 1075 = -(1075 - expo : ℕ) by omega, zpow_neg, zpow_natCast, div_eq_mul_inv]
    push_cast
    ring

/-! ### The nearest size and the tolerance (30 R103) -/

section Rate

variable {num den n : ℕ}

/-- `nearestSize` rounds to nearest, a tie upwards. -/
theorem nearestSize_spec (hden : 0 < den) :
    15000 * (nearestSize num den : ℚ) - 7500 ≤ (num : ℚ) / den ∧
      (num : ℚ) / den < 15000 * (nearestSize num den : ℚ) + 7500 := by
  have hpos : (0 : ℚ) < den := Nat.cast_pos.2 hden
  have hle : nearestSize num den * (30000 * den) ≤ 2 * num + 15000 * den := Nat.div_mul_le_self _ _
  have hlt : 2 * num + 15000 * den < 30000 * den * (nearestSize num den + 1) := Nat.lt_mul_div_succ _ (by omega)
  rw [← Nat.cast_le (α := ℚ)] at hle
  rw [← Nat.cast_lt (α := ℚ)] at hlt
  push_cast at hle hlt
  rw [le_div_iff₀ hpos, div_lt_iff₀ hpos]
  constructor <;> linarith

/-- Where a multiple of 15000 is within 7500 of the rate, the nearest one is as far from it, and it is that multiple unless
the two are tied. -/
theorem nearestSize_of_near (hden : 0 < den) (h : |(num : ℚ) / den - 15000 * n| ≤ 7500) :
    |(num : ℚ) / den - 15000 * nearestSize num den| = |(num : ℚ) / den - 15000 * n| ∧
      (|(num : ℚ) / den - 15000 * n| < 7500 → nearestSize num den = n) := by
  obtain ⟨hlo, hhi⟩ := nearestSize_spec (num := num) hden
  generalize nearestSize num den = q at hlo hhi ⊢
  obtain ⟨hlo', hhi'⟩ := abs_le.1 h
  have hnq : (n : ℚ) < q + 1 := by linarith
  have hqn : (q : ℚ) ≤ n + 1 := by linarith
  have hq : q = n ∨ q = n + 1 := by
    have h1 : n < q + 1 := by exact_mod_cast hnq
    have h2 : q ≤ n + 1 := by exact_mod_cast hqn
    omega
  rcases hq with rfl | rfl
  · exact ⟨rfl, fun _ => rfl⟩
  · push_cast at hlo hhi
    have htie : (num : ℚ) / den = 15000 * n + 7500 := by linarith
    push_cast
    rw [htie]
    refine ⟨?_, fun hlt => absurd hlt ?_⟩
    · rw [show (15000 * (n : ℚ) + 7500 - 15000 * (n + 1)) = -7500 by ring, add_sub_cancel_left, abs_neg]
    · rw [add_sub_cancel_left]
      norm_num

theorem natCast_dist (a b : ℕ) : ((a - b + (b - a) : ℕ) : ℚ) = |(a : ℚ) - b| := by
  rcases le_total a b with h | h
  · rw [Nat.sub_eq_zero_of_le h, Nat.zero_add, Nat.cast_sub h, abs_sub_comm, abs_of_nonneg (by simpa using h)]
  · rw [Nat.sub_eq_zero_of_le h, Nat.add_zero, Nat.cast_sub h, abs_of_nonneg (by simpa using h)]

/-- The test of the tolerance, made on integers, is the test on the values. -/
theorem offRate_iff (hden : 0 < den) {tol : ℕ × ℕ} (htol : 0 < tol.2) (n : ℕ) :
    offRate tol num den n = true ↔ (tol.1 : ℚ) / tol.2 < |(num : ℚ) / den - 15000 * n| := by
  have hpos : (0 : ℚ) < den := Nat.cast_pos.2 hden
  have hscale : |(num : ℚ) / den - 15000 * n| = ((num - 15000 * n * den + (15000 * n * den - num) : ℕ) : ℚ) / den := by
    rw [natCast_dist, div_sub' hpos.ne', abs_div, abs_of_pos hpos]
    push_cast
    rw [mul_comm (den : ℚ)]
  rw [hscale, div_lt_div_iff₀ (Nat.cast_pos.2 htol) hpos, offRate, decide_eq_true_iff]
  norm_cast

end Rate

theorem rateTol_spec (P : Params) : 0 < P.rateTol.2 ∧ (P.rateTol.1 : ℚ) / P.rateTol.2 < 7500 := by
  unfold Params.rateTol
  split
  · next h =>
    refine ⟨Nat.succ_pos _, ?_⟩
    rw [div_lt_iff₀ (Nat.cast_pos.2 (Nat.succ_pos _))]
    exact_mod_cast h
  · norm_num

/-! ### The checks in their order (60 R353) -/

section Checks

variable {P : Params} {sampleRate : F64} {pilotSel : Byte} {n root : ℕ} {e : Record}

/-- `E_CFG_SAMPLE_RATE`. -/
def rateError (sampleRate : F64) : Record := ⟨.eCfgSampleRate, .configure, .sampleRate sampleRate⟩

theorem fftSizeOf_of_not_positive (h : ¬(f64Finite sampleRate ∧ 0 < f64Value sampleRate)) :
    fftSizeOf P sampleRate = .error (rateError sampleRate) := by
  simp only [fftSizeOf, (f64Positive_eq_none_iff sampleRate).2 h]
  rfl

/-- A positive rate within 7500 of `15000 * n` but outside the tolerance is refused, also where two multiples are tied. -/
theorem fftSizeOf_of_off (hfin : f64Finite sampleRate) (hpos : 0 < f64Value sampleRate)
    (hnear : |f64Value sampleRate - 15000 * n| ≤ 7500)
    (hoff : (P.rateTol.1 : ℚ) / P.rateTol.2 < |f64Value sampleRate - 15000 * n|) :
    fftSizeOf P sampleRate = .error (rateError sampleRate) := by
  obtain ⟨⟨num, den⟩, hquot⟩ := exists_f64Positive hfin hpos
  obtain ⟨hden, hvalue⟩ := f64Value_of_f64Positive hquot
  rw [hvalue] at hnear hoff
  rw [← (nearestSize_of_near hden hnear).1, ← offRate_iff hden (rateTol_spec P).1] at hoff
  simp only [fftSizeOf, hquot, hoff, if_true]
  rfl

/-- A rate within the tolerance of `15000 * n` has the size `n`, if that is one. -/
theorem fftSizeOf_of_within (hfin : f64Finite sampleRate) (hpos : 0 < f64Value sampleRate)
    (hin : |f64Value sampleRate - 15000 * n| ≤ (P.rateTol.1 : ℚ) / P.rateTol.2) :
    fftSizeOf P sampleRate = if fftSizeOk n then .ok n else .error (fftSizeError .configure n) := by
  obtain ⟨⟨num, den⟩, hquot⟩ := exists_f64Positive hfin hpos
  obtain ⟨hden, hvalue⟩ := f64Value_of_f64Positive hquot
  obtain ⟨htol, hlt⟩ := rateTol_spec P
  rw [hvalue] at hin
  have hsize : nearestSize num den = n := (nearestSize_of_near hden (hin.trans hlt.le)).2 (hin.trans_lt hlt)
  have hoff : ¬offRate P.rateTol num den n := mt (offRate_iff hden htol n).1 (not_lt.2 hin)
  simp only [fftSizeOf, hquot, hsize, if_neg hoff]

theorem configureCheck_of_rate (h : fftSizeOf P sampleRate = .error e) :
    configureCheck P sampleRate pilotSel = .error e := by
  simp only [configureCheck, h]

theorem configureCheck_of_symbol (h : fftSizeOf P sampleRate = .ok n) (hroot : zcRootOfSymbol pilotSel.toNat = none) :
    configureCheck P sampleRate pilotSel = .error ⟨.eCfgSymbolIndex, .configure, .symbolIndex pilotSel⟩ := by
  simp only [configureCheck, h, hroot]

theorem configureCheck_of_long (h : fftSizeOf P sampleRate = .ok n) (hroot : zcRootOfSymbol pilotSel.toNat = some root)
    (hlong : 2 ^ 32 ≤ frameLength n + P.burstPad) :
    configureCheck P sampleRate pilotSel = .error (fftSizeError .configure n) := by
  simp only [configureCheck, h, hroot]
  exact if_neg (not_lt.2 hlong)

theorem configureCheck_of_fits (h : fftSizeOf P sampleRate = .ok n) (hroot : zcRootOfSymbol pilotSel.toNat = some root)
    (hfits : frameLength n + P.burstPad < 2 ^ 32) : configureCheck P sampleRate pilotSel = .ok (n, root) := by
  simp only [configureCheck, h, hroot]
  exact if_pos hfits

theorem zcRootOfSymbol_of_other (h4 : pilotSel ≠ 4) (h6 : pilotSel ≠ 6) : zcRootOfSymbol pilotSel.toNat = none := by
  unfold zcRootOfSymbol
  split
  · next h => exact absurd (BitVec.eq_of_toNat_eq h) h4
  · next h => exact absurd (BitVec.eq_of_toNat_eq h) h6
  · rfl

/-! ### The two ends of `CONFIGURE` (48 R321) -/

theorem configuredRegs_eq (threshold : F32) (hn : 1024 ≤ n) (s : State) :
    ((s.withRegs (configuredRegs P sampleRate threshold pilotSel n root)).withStatus .ok).withReply .done =
      configured P sampleRate threshold pilotSel n root s := by
  simp only [configured, ← carrierIndices_eq_dataCarriers hn, configuredRegs, freshRegs, Regs.xcorrInit, State.withReply,
    State.withStatus, State.withRegs, State.withInst]
  rfl

theorem configure_of_ok (h : configureCheck P sampleRate pilotSel = .ok (n, root)) (threshold : F32) (s : State) :
    configure P sampleRate threshold pilotSel s = configured P sampleRate threshold pilotSel n root s := by
  have hsize : AdmittedSize n := fftSizeOk_iff_admitted.1 (fftSizeOf_ok (configureCheck_ok h).1)
  simp only [configure, h]
  exact configuredRegs_eq threshold (le_of_admitted hsize) s

theorem configure_of_error (h : configureCheck P sampleRate pilotSel = .error e) (threshold : F32) (s : State) :
    configure P sampleRate threshold pilotSel s = configFailed e s := by
  simp only [configure, h]
  rfl

end Checks

/-- Settles O11: the rate's checks by its distance from `15000 * n`, then the symbol's, then that of the burst's length. -/
theorem configureOutcome : Obligations.ConfigureOutcome := by
  refine ⟨fun _ _ _ _ => rfl, ?_⟩
  intro P s sampleRate threshold pilotSel badRate tol
  refine ⟨fun h => ?_, fun n hfin hpos hnear => ?_⟩
  · exact configure_of_error (configureCheck_of_rate (fftSizeOf_of_not_positive h)) threshold s
  have hok (htol : |f64Value sampleRate - 15000 * n| ≤ tol) (hn : AdmittedSize n) : fftSizeOf P sampleRate = .ok n := by
    rw [fftSizeOf_of_within hfin hpos htol, if_pos (fftSizeOk_iff_admitted.2 hn)]
  refine ⟨fun htol => ?_, fun htol hn => ?_, fun htol hn h4 h6 => ?_, fun htol hn hpilot hlong => ?_,
    fun htol hn hfits => ⟨fun h4 => ?_, fun h6 => ?_⟩⟩
  · exact configure_of_error (configureCheck_of_rate (fftSizeOf_of_off hfin hpos hnear htol)) threshold s
  · have hsize := fftSizeOf_of_within hfin hpos htol
    rw [if_neg (mt fftSizeOk_iff_admitted.1 hn)] at hsize
    exact configure_of_error (configureCheck_of_rate hsize) threshold s
  · exact configure_of_error (configureCheck_of_symbol (hok htol hn) (zcRootOfSymbol_of_other h4 h6)) threshold s
  · obtain ⟨root, hroot⟩ : ∃ root, zcRootOfSymbol pilotSel.toNat = some root := by
      rcases hpilot with rfl | rfl <;> exact ⟨_, rfl⟩
    exact configure_of_error (configureCheck_of_long (hok htol hn) hroot hlong) threshold s
  · exact configure_of_ok (configureCheck_of_fits (hok htol hn) (h4 ▸ rfl) hfits) threshold s
  · exact configure_of_ok (configureCheck_of_fits (hok htol hn) (h6 ▸ rfl) hfits) threshold s

/-- Settles O10: a rate of exactly `15000 * n` is at no distance from it, so within any tolerance. -/
theorem configureAdmitted : Obligations.ConfigureAdmitted := by
  intro s sampleRate threshold pilotSel n root hfin hvalue hn hpilot hfits
  have hpos : 0 < f64Value sampleRate := by
    rw [hvalue]
    exact mul_pos (by norm_num) (Nat.cast_pos.2 (Nat.lt_of_lt_of_le (by norm_num) (le_of_admitted hn)))
  have hin : |f64Value sampleRate - 15000 * n| ≤ (Config.params.rateTol.1 : ℚ) / Config.params.rateTol.2 := by
    rw [hvalue, sub_self, abs_zero]
    exact div_nonneg (Nat.cast_nonneg _) (Nat.cast_nonneg _)
  have hsize : fftSizeOf Config.params sampleRate = .ok n := by
    rw [fftSizeOf_of_within hfin hpos hin, if_pos (fftSizeOk_iff_admitted.2 hn)]
  have hroot : zcRootOfSymbol pilotSel.toNat = some root := by
    rcases hpilot with ⟨rfl, rfl⟩ | ⟨rfl, rfl⟩ <;> rfl
  exact congrArg Host.Outcome.next (configure_of_ok (configureCheck_of_fits hsize hroot hfits) threshold s)

end Sys2Proof.Machine
end

section
/-!
PROOFS. `PROCESS_BURST` (spec 48_system_operations R326): its stages as the statements about the units write them, and its
three early exits.
-/

namespace Sys2Proof.Machine

open Sys2Proof Sys2Proof.Terms

/-! ### What the invariant gives the units -/

section Inv

variable {P : Params} {r : Regs}

theorem Regs.Inv.admitted (h : r.Inv P) : AdmittedSize r.fftSize := fftSizeOk_iff_admitted.1 h.config.sizeOk

theorem Regs.Inv.pilotSel (h : r.Inv P) : r.pilotSel = 4 ∨ r.pilotSel = 6 :=
  h.config.pilot.imp (fun hp => BitVec.eq_of_toNat_eq hp) fun hp => BitVec.eq_of_toNat_eq hp

theorem Regs.Inv.frameOk (h : r.Inv P) : FrameOk r := ⟨h.pilotSel, h.config.frame⟩

/-- `CP_SHORT` is at most `CP_LONG` (30 R104). -/
theorem Regs.Inv.cpShort_le (h : r.Inv P) : r.cpShort ≤ r.cpLong := by
  rw [h.config.cpShort, h.config.cpLong, cpShortOf, cpLongOf]
  omega

theorem Regs.Inv.dcIdx (h : r.Inv P) : r.dcIdx = dataCarriers r.fftSize :=
  h.reference.dcIdx.trans (carrierIndices_eq_dataCarriers (le_of_admitted h.admitted))

/-! ### The stages of a frame -/

theorem derotated_length (ν : Numerics F32 HReal) (r : Regs) (frame : List C32) (w : HReal) :
    (derotated ν r frame w).length = r.frameLen := by
  rw [derotated, List.length_map, List.length_range]

theorem isGrid_frameGrid (ν : Numerics F32 HReal) (r : Regs) (frame : List C32) :
    isGrid 9 600 (frameGrid ν r frame) = true := by
  rw [isGrid_iff, frameGrid_eq_map_frameRow]
  refine ⟨rfl, fun row hrow => ?_⟩
  obtain ⟨j, -, rfl⟩ := List.mem_map.1 hrow
  rw [frameRow, List.length_map, List.length_range]

theorem gridChannel_length (ν : Numerics F32 HReal) (r : Regs) (free : ℕ → C32) (syms : List (List C32)) :
    (gridChannel ν r free syms).length = 600 := by
  rw [gridChannel, List.length_map, List.length_range]

theorem bitSelect_length (P : Params) (bits9 : List (List Bool)) : (bitSelect P bits9).length = 7200 := by
  rw [bitSelect, List.length_map, List.length_range]

/-- `CBITS` of a frame (48 R326): corrected, demodulated, equalized, demapped and selected. -/
def Regs.frameBits (P : Params) (r : Regs) (free : ℕ → C32) (frame : List C32) : List Bool :=
  let ν := P.numerics
  let syms := frameGrid ν r (derotated ν r frame (frameCfo ν r frame))
  bitSelect P (demapGrid (gridEqualized ν r syms (gridChannel ν r free syms)))

/-- The stages after the realignment end as the decoder does on the frame's bits. -/
theorem Regs.frameStages_eq (h : r.Inv P) (free : ℕ → C32) (t : Transients) {frame : List C32}
    (hf : frame.length = r.frameLen) :
    ∃ run, r.frameStages P free t frame = some run ∧ run.draws = 600 ∧
      run.outcome = (decodeSoft P ((r.frameBits P free frame).map softOfBool)).result := by
  have hgrid := isGrid_frameGrid P.numerics r (derotated P.numerics r frame (frameCfo P.numerics r frame))
  have hpilot : 1 ≤ r.pilotSel.toNat ∧ r.pilotSel.toNat ≤ 9 := by
    rcases h.config.pilot with hp | hp <;> omega
  unfold Regs.frameStages
  rw [cfoEstimate_eq_frameCfo _ h.frameOk hf]
  dsimp only
  rw [cfoCorrect_eq_derotated _ hf,
    ofdmDemod_eq_frameGrid _ h.admitted h.cpShort_le h.dcIdx ((derotated_length ..).trans h.config.frame)]
  dsimp only
  rw [chanEst_eq_gridChannel _ _ h.reference.zcFreq (length_rowOf hgrid hpilot.1 hpilot.2),
    equalize_eq_gridEqualized _ hgrid (gridChannel_length ..), decodeRun_bits _ (bitSelect_length ..),
    Regs.frameBits]
  generalize decodeSoft P _ = answer
  exact ⟨_, rfl, rfl, rfl⟩

/-! ### The range check (43 R203) -/

theorem Regs.frameFits_iff (r : Regs) (s0 : ℤ) :
    r.frameFits s0 = true ↔ ¬(s0 < 0 ∨ (r.burstLen : ℤ) < s0 + r.frameLen) := by
  rw [Regs.frameFits, Bool.and_eq_true, decide_eq_true_iff, decide_eq_true_iff]
  omega

theorem Regs.burstStages_out_of_range (free : ℕ → C32) {burst : List C32} {s0 : ℤ} (hs0 : (r.syncAlign P burst).2 = s0)
    (hrange : s0 < 0 ∨ (r.burstLen : ℤ) < s0 + r.frameLen) :
    ∃ run, r.burstStages P free burst = some run ∧ run.draws = 0 ∧ run.outcome = .error (syncRangeError s0) := by
  have hfit : ¬r.frameFits s0 = true := fun hfit => (r.frameFits_iff s0).1 hfit hrange
  simp only [Regs.burstStages, hs0, if_neg hfit]
  exact ⟨_, rfl, rfl, rfl⟩

theorem Regs.burstStages_in_range (h : r.Inv P) (free : ℕ → C32) {burst : List C32} (hb : burst.length = r.burstLen)
    {s0 : ℤ} (hs0 : (r.syncAlign P burst).2 = s0) (hrange : ¬(s0 < 0 ∨ (r.burstLen : ℤ) < s0 + r.frameLen)) :
    ∃ run, r.burstStages P free burst = some run ∧ run.draws = 600 ∧ run.outcome =
      (decodeSoft P ((r.frameBits P free ((burst.drop s0.toNat).take r.frameLen)).map softOfBool)).result := by
  have hread : memRead burst s0.toNat r.frameLen = some ((burst.drop s0.toNat).take r.frameLen) :=
    memRead_eq_some (by omega)
  simp only [Regs.burstStages, hs0, if_pos ((r.frameFits_iff s0).2 hrange), hread]
  exact Regs.frameStages_eq h free _ (memRead_length hread)

/-! ### The report -/

section Report

variable {s : State} {start : U64} {run : BurstRun}

theorem processBurst_of_stages (hs : s.inst = .ready r) {burst : List C32} (hb : burst.length = r.burstLen)
    (hrun : r.burstStages P (fun i => Config.freeCplx (s.drawn + i)) burst = some run) :
    processBurst P burst start s = .next (s.reportBurst r start run) := by
  rw [processBurst, agentOp_ready hs, if_pos hb, hrun, orFault_some]

/-- The state after a burst dropped with the record `e`. -/
def State.drop (s : State) (start : U64) (e : Record) (draws : ℕ) : State :=
  { s with
    lastStatus := e.code, out := s.out ++ [.status e.code start], reply := some (.error e), drawn := s.drawn + draws }

/-- The registers are left as they were: `INST_STATE` and what exists in it is what it was. -/
theorem State.reportBurst_ok_eq (hs : s.inst = .ready r) (h : r.Inv P) {bytes : List Byte} (ho : run.outcome = .ok bytes) :
    s.reportBurst r start run = { s with
      lastStatus := .ok, out := s.out ++ [.payload bytes start, .status .ok start], reply := some .done,
      drawn := s.drawn + run.draws } := by
  rw [State.reportBurst_ok ho, Regs.clearTransients_of_inv h, ← hs]

theorem State.reportBurst_error_eq (hs : s.inst = .ready r) (h : r.Inv P) {e : Record} (ho : run.outcome = .error e) :
    s.reportBurst r start run = s.drop start e run.draws := by
  rw [State.reportBurst_error ho, Regs.clearTransients_of_inv h, ← hs, State.drop]

/-- The report of a burst that ends as the decoder's answer `out` says (46 R282). -/
theorem State.reportBurst_decoded (hs : s.inst = .ready r) (h : r.Inv P) {out : ℤ × List Byte} (ho : run.outcome =
      if out.1 ≠ 0 then .error ⟨.sDecoderFail, .decode, .decoderStatus out.1⟩
      else if crc24 out.2 ≠ 0 then .error ⟨.sCrcFail, .decode, .crcResidual (crc24 out.2)⟩
      else .ok out.2) :
    s.reportBurst r start run =
      if out.1 ≠ 0 then s.drop start ⟨.sDecoderFail, .decode, .decoderStatus out.1⟩ run.draws
      else if crc24 out.2 ≠ 0 then s.drop start ⟨.sCrcFail, .decode, .crcResidual (crc24 out.2)⟩ run.draws
      else { s with
        lastStatus := .ok, out := s.out ++ [.payload out.2 start, .status .ok start], reply := some .done,
        drawn := s.drawn + run.draws } := by
  split_ifs at ho ⊢
  · exact State.reportBurst_error_eq hs h ho
  · exact State.reportBurst_error_eq hs h ho
  · exact State.reportBurst_ok_eq hs h ho

end Report

end Inv

/-- Settles O59: the range check decides first; in range, the outcome is that of the decoder on the frame's bits. -/
theorem processBurstResult : Obligations.ProcessBurstResult := by
  intro s r burst start hs h hb P ν s0 dropped frame syms eq run
  change processBurst P burst start s = _
  by_cases hrange : s0 < 0 ∨ (r.burstLen : ℤ) < s0 + r.frameLen
  · obtain ⟨out, hstages, hdraws, hout⟩ := Regs.burstStages_out_of_range (P := P) (fun i => Config.freeCplx (s.drawn + i))
      (s0 := s0) rfl hrange
    rw [if_pos hrange, processBurst_of_stages hs hb hstages, State.reportBurst_error_eq hs h hout, hdraws]
    rfl
  · obtain ⟨out, hstages, hdraws, hout⟩ := Regs.burstStages_in_range h (fun i => Config.freeCplx (s.drawn + i)) hb
      (s0 := s0) rfl hrange
    rw [decodeSoft_result] at hout
    have hreport := State.reportBurst_decoded (start := start) hs h hout
    rw [hdraws] at hreport
    rw [if_neg hrange, processBurst_of_stages hs hb hstages, hreport]
    rfl

end Sys2Proof.Machine
end

section
/-!
PROOFS. `PROCESS_BLOCK` (spec 48_system_operations R324, R325; 20_memory R82): what U3 is fed, and how the bursts it finds are
delivered.
-/

namespace Sys2Proof.Machine

open Sys2Proof Sys2Proof.Terms

/-! ### Delivering bursts (48 R324, 20 R82) -/

section Deliver

variable {P : Params} {r : Regs} {s t : State}

/-- One burst of the right length is sent and processed: its messages end the messages sent, its code is the last status. -/
theorem processBurst_delivers (h : r.Inv P) (hs : s.inst = .ready r) {b : Burst} (hb : b.samples.length = r.burstLen) :
    ∃ t e, processBurst P b.samples b.start (s.send (.burst b)) = .next t ∧ t.inst = .ready r ∧ t.issued = s.issued ∧
      BurstEndOk e ∧ t.out = s.out ++ burstMessages b e ∧ t.lastStatus = e.code := by
  have hsent : (s.send (.burst b)).inst = .ready r := hs
  rcases processBurst_ready hsent h b.samples b.start with ⟨-, run, hrun, hp⟩ | ⟨hne, -⟩
  · rw [hp]
    obtain ⟨hinst, hissued⟩ := State.reportBurst_frame (s := s.send (.burst b)) h b.start run
    rcases Regs.burstStages_outcome hrun with ⟨bytes, ho, hlen, hcrc⟩ | ⟨e, ho, hcode⟩
    · refine ⟨_, ⟨.ok, some bytes⟩, rfl, hinst, hissued, .inl ⟨bytes, rfl, hlen, hcrc⟩, ?_, ?_⟩ <;>
        rw [State.reportBurst_ok ho]
      simp [burstMessages]
    · refine ⟨_, ⟨e.code, none⟩, rfl, hinst, hissued, .inr ⟨hcode, rfl⟩, ?_, ?_⟩ <;> rw [State.reportBurst_error ho]
      simp [burstMessages]
  · exact absurd hb hne

/-- What the loop over the bursts of a block leaves: the registers and the issued operations, the messages of each burst in
order, and the code of the last. -/
theorem deliverBursts_delivers (h : r.Inv P) {bs : List Burst} (hbs : ∀ b ∈ bs, b.samples.length = r.burstLen)
    (hs : s.inst = .ready r) :
    ∃ u ends, deliverBursts P bs s = .next u ∧ Delivered (processBurst P) bs s u ∧ u.inst = .ready r ∧
      u.issued = s.issued ∧ ends.length = bs.length ∧ (∀ e ∈ ends, BurstEndOk e) ∧
      u.out = s.out ++ (bs.zip ends).flatMap (fun be => burstMessages be.1 be.2) ∧
      u.lastStatus = (ends.map (·.code)).getLastD s.lastStatus := by
  induction bs generalizing s with
  | nil => exact ⟨s, [], rfl, rfl, hs, rfl, rfl, by simp, by simp, rfl⟩
  | cons b bs ih =>
    obtain ⟨t, e, hp, ht, htissued, he, htout, htstatus⟩ := processBurst_delivers h hs (hbs b List.mem_cons_self)
    obtain ⟨u, ends, hu, hdel, hinst, hissued, hlen, hends, hout, hstatus⟩ :=
      ih (fun b' hb' => hbs b' (List.mem_cons_of_mem b hb')) ht
    refine ⟨u, e :: ends, ?_, ⟨t, hp, hdel⟩, hinst, hissued.trans htissued, congrArg (· + 1) hlen,
      List.forall_mem_cons.2 ⟨he, hends⟩, ?_, ?_⟩
    · rw [deliverBursts, hp]
      exact hu
    · rw [hout, htout, List.zip_cons_cons, List.flatMap_cons, List.append_assoc]
    · rw [hstatus, htstatus, List.map_cons, List.getLastD_cons]

end Deliver

/-! ### What U3 is fed (48 R325) -/

section Feed

variable {P : Params} {r : Regs} {samples : List C32} {readPos : U64} {scores : List F32}

/-- The samples and scores of windows `lo .. hi - 1` as the statements write them: score `a` with the sample `d` before it. -/
theorem zip_windows {hist : List C32} {sc : List F32} {a0 d : ℕ} (hhist : a0 + sc.length ≤ hist.length) :
    let lo := max a0 d
    ((hist.drop (lo - d)).take (a0 + sc.length - lo)).zip (sc.drop (lo - a0)) =
      (List.range (a0 + sc.length - lo)).map fun k =>
        (hist.getD (lo + k - d) ⟨0, 0⟩, sc.getD (lo + k - a0) 0) := by
  intro lo
  have hd : d ≤ lo := Nat.le_max_right _ _
  have ha : a0 ≤ lo := Nat.le_max_left _ _
  refine List.ext_getElem ?_ fun k hk _ => ?_
  · simp only [List.length_zip, List.length_take, List.length_drop, List.length_map, List.length_range]
    omega
  · simp only [List.length_zip, List.length_take, List.length_drop] at hk
    have hsample : lo - d + k = lo + k - d := by omega
    have hscore : lo - a0 + k = lo + k - a0 := by omega
    simp only [List.getElem_zip, List.getElem_take, List.getElem_drop, List.getElem_map, List.getElem_range, hsample,
      hscore]
    rw [List.getD_eq_getElem _ _ (by omega), List.getD_eq_getElem _ _ (by omega)]

/-- No more windows are scored than samples are held. -/
theorem Regs.xcorrPush_windows_le (h : r.CorrelatorOk P) (samples : List C32) (readPos : U64) :
    r.xcNext + (r.xcorrPush P samples readPos).2.length ≤ (r.hist ++ samples).length :=
  Regs.xcorrPush_xcNext P r samples readPos ▸ (Regs.xcorrPush_correlatorOk h samples readPos).next

/-- What `BlockOutcome` says of what U3 is fed: the registers `r1` without the latch, the pairs, and the first position. -/
def Regs.Feeds (P : Params) (r : Regs) (samples : List C32) (readPos : U64) (scores : List F32) (r1 : Regs)
    (fed : List (C32 × F32)) (pos : U64) : Prop :=
  (P.scoreSrc = .external → r1 = r ∧ fed = samples.zip scores ∧ pos = readPos) ∧
  (P.scoreSrc = .internal →
    r1 = (r.xcorrPush P samples readPos).1 ∧
    (let sc := (r.xcorrPush P samples readPos).2
     let lo := max r.xcNext P.dPre
     fed = (List.range (r.xcNext + sc.length - lo)).map (fun k =>
       ((r.hist ++ samples).getD (lo + k - P.dPre) ⟨0, 0⟩, sc.getD (lo + k - r.xcNext) 0)) ∧
     (fed ≠ [] → ∃ t0, r1.t0 = some t0 ∧ pos = t0 + BitVec.ofNat 64 (lo - P.dPre))))

/-- Everything the pairing can answer: nothing, where no score has a sample, or the windows from `lo` on. -/
theorem Regs.pairing_cases {a0 : ℕ} {sc : List F32} {f : Feed} (hf : r.pairing P a0 sc = some f) :
    let lo := max a0 P.dPre
    (a0 + sc.length ≤ lo ∧ f = ⟨[], [], 0⟩) ∨
    ∃ t0, r.t0 = some t0 ∧ f = ⟨(r.hist.drop (lo - P.dPre)).take (a0 + sc.length - lo), sc.drop (lo - a0),
      t0 + BitVec.ofNat 64 (lo - P.dPre)⟩ := by
  unfold Regs.pairing at hf
  dsimp only at hf
  split at hf
  · next hle =>
    cases hf
    exact .inl ⟨hle, rfl⟩
  · split at hf
    · cases hf
    · next t0 ht0 =>
      cases hf
      exact .inr ⟨t0, ht0, rfl⟩

/-- `XCORR_PUSH` does not see the latch, nor writes it. -/
theorem Regs.xcorrPush_latch (P : Params) (r : Regs) (samples : List C32) (readPos : U64) :
    r.latch.xcorrPush P samples readPos =
      ((r.xcorrPush P samples readPos).1.latch, (r.xcorrPush P samples readPos).2) := rfl

theorem Regs.pairing_latch (P : Params) (r : Regs) (a0 : ℕ) (sc : List F32) :
    r.latch.pairing P a0 sc = r.pairing P a0 sc := rfl

/-- The feed of a call after the latch. -/
theorem Regs.feed_latch (h : r.CorrelatorOk P) (samples : List C32) (readPos : U64) (scores : List F32) :
    ∃ r1 f, r.latch.feed P samples readPos scores = some (r1.latch, f) ∧ r.Updates P r1 ∧ r1.burstLen = r.burstLen ∧
      r1.threshold = r.threshold ∧ r1.detector = r.detector ∧
      r.Feeds P samples readPos scores r1 (f.samples.zip f.scores) f.pos := by
  cases hsrc : P.scoreSrc with
  | external =>
    refine ⟨r, ⟨samples, scores, readPos⟩, ?_, .refl, rfl, rfl, rfl, fun _ => ⟨rfl, rfl, rfl⟩, fun hint => ?_⟩
    · simp only [Regs.feed, hsrc]
    · rw [hsrc] at hint
      cases hint
  | internal =>
    obtain ⟨f, hf⟩ := Regs.pairing_some h samples readPos
    have hle := Regs.xcorrPush_windows_le h samples readPos
    refine ⟨(r.xcorrPush P samples readPos).1, f, ?_, .single (.xcorrPush ..), rfl, rfl, rfl, fun hext => ?_,
      fun _ => ⟨rfl, ?_⟩⟩
    · simp only [Regs.feed, hsrc, Regs.xcorrPush_latch, Regs.pairing_latch, Regs.latch_xcNext, hf]
    · rw [hsrc] at hext
      cases hext
    · intro sc lo
      rcases Regs.pairing_cases hf with ⟨hnone, rfl⟩ | ⟨t0, ht0, rfl⟩
      · refine ⟨?_, fun hne => absurd rfl hne⟩
        rw [Nat.sub_eq_zero_of_le hnone]
        rfl
      · exact ⟨zip_windows hle, fun _ => ⟨t0, ht0, rfl⟩⟩

end Feed

/-! ### The call (48 R324) -/

section Call

variable {P : Params} {r : Regs} {s : State}

/-- The registers `r1` with the threshold latched and U3's state `d`. -/
def Regs.detected (r1 : Regs) (thr : F32) (d : Detector) : Regs :=
  { r1 with thrLatch := some thr, fsm := d.fsm, burstBuf := d.buf }

/-- `FSM_BLOCK` on latched registers: U3 runs from its state in `r` and leaves its new one. -/
theorem Regs.fsmBlock_latch {r1 : Regs} (hlen : r1.burstLen = r.burstLen) (hthr : r1.threshold = r.threshold)
    (hdet : r1.detector = r.detector) {f : Feed} {d : Detector × List Burst}
    (hd : Detector.run r.burstLen r.threshold f.pos (f.samples.zip f.scores) r.detector = d) :
    r1.latch.fsmBlock f.samples f.scores f.pos = (r1.detected r.threshold d.1, d.2) := by
  rw [← hd, ← hlen, ← hthr, ← hdet]
  rfl

/-- The end of a call on registers with `n` samples held, `quiet` where the notice is raised (60 R346). -/
theorem State.endBlock_eq (P : Params) (u : State) (r : Regs) (bursts : List Burst) :
    let quiet := bursts = [] ∧ P.scoreSrc = .internal ∧ r.hist.length ≤ r.taps.length
    u.endBlock P r bursts = { u with
      lastStatus := if quiet then .nInsufficientData else u.lastStatus
      reply := some (if quiet then .error ⟨.nInsufficientData, .processBlock, .absorbed r.hist.length⟩ else .done) } := by
  intro quiet
  by_cases hq : quiet
  · rw [if_pos hq, if_pos hq]
    exact if_pos hq
  · rw [if_neg hq, if_neg hq]
    exact if_neg hq

theorem State.endBlock_lastStatus {u : State} {bursts : List Burst}
    (hq : ¬(bursts = [] ∧ P.scoreSrc = .internal ∧ r.hist.length ≤ r.taps.length)) :
    (u.endBlock P r bursts).lastStatus = u.lastStatus := by
  rw [State.endBlock_eq]
  exact if_neg hq

theorem runBlock_outcome (h : r.Inv P) (samples : List C32) (readPos : U64) (scores : List F32) :
    ∃ t, runBlock P r samples readPos scores s = .next t ∧
      BlockOutcome P (processBurst P) r samples readPos scores s t := by
  obtain ⟨r1, f, hfeed, hupd, hlen, hthr, hdet, hext, hint⟩ := Regs.feed_latch h.correlator samples readPos scores
  obtain ⟨d, hd⟩ : ∃ d, Detector.run r.burstLen r.threshold f.pos (f.samples.zip f.scores) r.detector = d := ⟨_, rfl⟩
  have hfsm := Regs.fsmBlock_latch hlen hthr hdet hd
  have hinv : (r1.latch.fsmBlock f.samples f.scores f.pos).1.Inv P :=
    (Regs.Update.fsmBlock ..).inv ((Regs.Update.latch r1).inv (Regs.Updates.inv h hupd))
  rw [hfsm] at hinv
  have hfull : ∀ b ∈ d.2, b.samples.length = r1.burstLen := by
    rw [← hd, hlen]
    exact (Detector.run_ok h.config.burst_pos _ _ _ ((Regs.detectorOk_iff r).1 h.detector)).2
  obtain ⟨u, ends, hu, hdel, hinst, hissued, hends, hok, hout, hstatus⟩ :=
    deliverBursts_delivers hinv hfull (State.withRegs_inst s (r1.detected r.threshold d.1))
  have hrun : runBlock P r samples readPos scores s = .next (u.endBlock P (r1.detected r.threshold d.1) d.2) := by
    simp only [runBlock, hfeed, orFault_some, hfsm, hu]
  have hlast (e : BurstEnd) (he : ends.getLast? = some e) :
      (u.endBlock P (r1.detected r.threshold d.1) d.2).lastStatus = e.code := by
    have hsome : d.2 ≠ [] := fun hnone => by
      rw [hnone, List.length_nil, List.length_eq_zero_iff] at hends
      simp [hends] at he
    rw [State.endBlock_lastStatus fun hq => hsome hq.1, hstatus, List.getLastD_eq_getLast?, List.getLast?_map, he]
    rfl
  have hnone (hd2 : d.2 = []) (hq : ¬(d.2 = [] ∧ P.scoreSrc = .internal ∧ r1.hist.length ≤ r1.taps.length)) :
      (u.endBlock P (r1.detected r.threshold d.1) d.2).lastStatus = s.lastStatus := by
    rw [hd2, List.length_nil, List.length_eq_zero_iff] at hends
    rw [State.endBlock_lastStatus (r := r1.detected r.threshold d.1) hq, hstatus, hends]
    rfl
  subst hd
  exact ⟨_, hrun, r1, _, f.pos, u, ends, hext, hint, hdel, State.endBlock_eq .., (State.endBlock_inst ..).trans hinst,
    (State.endBlock_issued ..).trans hissued, hends, hok, (congrArg State.out (State.endBlock_eq ..)).trans hout, hlast,
    hnone⟩

end Call

/-- Settles O60: the call passes its checks, and `PROCESS_BURST` is the loop's own operation. -/
theorem processBlockResult : Obligations.ProcessBlockResult := by
  have hall (P : Params) (s : State) (r : Regs) (samples : List C32) (readPos : U64) (scores : List F32)
      (hs : s.inst = .ready r) (h : r.Inv P) (hlen : P.scoreSrc = .external → scores.length = samples.length) :
      ∃ t, processBlock P samples readPos scores s = .next t ∧
        BlockOutcome P (processBurst P) r samples readPos scores s t := by
    rw [processBlock, agentOp_ready hs, if_neg fun hbad => hbad.2 (hlen hbad.1)]
    exact runBlock_outcome h samples readPos scores
  exact ⟨hall, fun s r samples readPos scores => hall Config.params s r samples readPos (scores.getD [])⟩

end Sys2Proof.Machine
end
